-- ==== Sys2Proof/Word.lean ====
section
/-! DEFINITION. The words of VPE-CORE: bytes and their fields (spec 00_scope.md R9). -/

namespace Sys2Proof

/-- A byte: 8 bits, bit 7 the most significant (R9). -/
abbrev Byte := BitVec 8

/-- Half a byte, `b[7:4]` or `b[3:0]` (R9). -/
abbrev Nibble := BitVec 4

end Sys2Proof
end

