-- ==== Sys2Proof/Config.lean ====
section
/-! DEFINITION. The parameters of the block (spec 00_scope.md R7) and the values the spec leaves OPEN
(spec 92_eei_decisions.md D25, D33). An open value is an `opaque` constant: nothing in Lean can evaluate it. -/

namespace Sys2Proof.Config

/-- `TERM`: the frame terminator (R7). -/
def term : Byte := 0xFF

/-- `MAX_PAYLOAD`: the longest request payload (R7). -/
def maxPayload : Nat := 12

/-- `MAX_FRAME`: the longest frame (R7). -/
def maxFrame : Nat := 16

/-- `MIN_REPLY`: the shortest reply frame that is classified (R7). -/
def minReply : Nat := 3

/-- `BUF_CAP`: the capacity of the receive buffer (R7). -/
def bufCap : Nat := 16

/-- `REQ_OVERHEAD`: request length minus payload length (R7). -/
def reqOverhead : Nat := 4

/-- `MAX_RPL_PAYLOAD`: the longest Completion payload (R7). -/
def maxRplPayload : Nat := 13

/-- The default of `CATEGORY_CODES` (R7, R74, D9): Camera1 and PanTilter. A machine may extend it
(`State.categoryCodes`). -/
def defaultCategoryCodes : List Byte := [0x04, 0x06]

/-- `chan_err_code` (R211, D25), OPEN: the detail byte, less 4, of the `n`-th channel error other than IO, TIMEOUT
and CLOSED. A free value (log entry 14); the bound keeps the byte in 4..255. -/
opaque chanErrOther : Nat → Fin 252

/-- Power.set's two values (R93). -/
inductive Power where
  | on
  | off
  deriving DecidableEq, Repr

/-- The eight jog directions and stop (R99). -/
inductive Direction where
  | up | down | left | right | upLeft | upRight | downLeft | downRight | stop
  deriving DecidableEq, Repr

/-- The three Presets operations (R100). -/
inductive PresetAction where
  | set | reset | recall
  deriving DecidableEq, Repr

/-- `POWER_SET_CODE` (R93, D33), OPEN: a consumer parameter (log entry 15). -/
opaque powerSetCode : Power → Byte

/-- `JOG_PAYLOAD` (R99, D33), OPEN: byte `i` of a direction's five (log entry 15). -/
opaque jogPayload : Direction → Fin 5 → Byte

/-- `PRESET_OP` (R100, D33), OPEN: a consumer parameter (log entry 15). -/
opaque presetOp : PresetAction → Byte

end Sys2Proof.Config
end

