-- ==== Sys2Proof/Syntax.lean ====
section
/-! DEFINITION. The instructions of VPE-CORE: one constructor per row of spec/opcode_table.json, in the table's
order, and the operands each row carries. -/

namespace Sys2Proof

/-- The message kind (R73): on the host port a 1-bit select, 0 Command and 1 Inquiry (R87). -/
inductive Kind where
  | command
  | inquiry
  deriving DecidableEq, Repr

/-- The operands of BUILD and TRANSACT on the host port (R87). All twelve payload bytes are presented; only
the first `plen` are read. -/
structure HostReq where
  addr  : Byte
  kind  : Kind
  cat   : Byte
  plen  : Byte
  pdata : List Byte
  deriving DecidableEq, Repr

/-- The fields of a request frame (R71): the device address of byte 0, the category of byte 2 and the payload. -/
structure Request where
  addr    : BitVec 3
  cat     : Byte
  payload : List Byte
  deriving DecidableEq, Repr

/-- The fields of a reply frame (R76 to R78): the address nibble and the unused low nibble of byte 0, the socket
of byte 1, and the bytes between byte 1 and the terminator. The reply type is the row's own. -/
structure Reply where
  addrNibble : Nibble
  lowNibble  : Nibble
  socket     : Nibble
  body       : List Byte
  deriving DecidableEq, Repr

/-- The instructions: one constructor per row of spec/opcode_table.json. -/
inductive Instr where
  -- HOST_OP: what the host issues on the host port (R86)
  | build (q : HostReq)
  | parse (flen : BitVec 5) (fdata : List Byte)
  | nextFrame
  | transact (q : HostReq)
  | reset
  | reservedOp0
  | reservedOp6
  | reservedOp7
  -- REQUEST: the frame the block writes (R71)
  | reqCommand (r : Request)
  | reqInquiry (r : Request)
  -- REPLY: the frames the block dispatches on (R79)
  | rplAck (r : Reply)
  | rplCompletion (r : Reply)
  | rplError (r : Reply)
  | rplReservedType0 (r : Reply)
  | rplReservedType1 (r : Reply)
  | rplReservedType2 (r : Reply)
  | rplReservedType3 (r : Reply)
  | rplReservedType7 (r : Reply)
  | rplReservedType8 (r : Reply)
  | rplReservedType9 (r : Reply)
  | rplReservedTypeA (r : Reply)
  | rplReservedTypeB (r : Reply)
  | rplReservedTypeC (r : Reply)
  | rplReservedTypeD (r : Reply)
  | rplReservedTypeE (r : Reply)
  | rplReservedTypeF (r : Reply)
  -- ERROR_CODE: byte 2 of an Error reply (R81, R82)
  | errMsgLength
  | errSyntax
  | errFullBuffer
  | errCanceled
  | errNoSocket
  | errNotExecutable
  | errOther (code : Byte)
  -- CATEGORY: byte 2 of a request (R74)
  | catCamera1
  | catPanTilter
  -- PSEUDO: the Command Layer's operations, each one TRANSACT (R91)
  | powerGet (addr : BitVec 3)
  | powerSet (addr : BitVec 3) (value : Byte)
  | zoomGet (addr : BitVec 3)
  | zoomSet (addr : BitVec 3) (value : BitVec 16)
  | panTiltGet (addr : BitVec 3)
  | panTiltSetAbsolute (addr : BitVec 3) (pan tilt : BitVec 16)
  | panTiltSetRelative (addr : BitVec 3) (pan tilt : BitVec 16)
  | panTiltJogOrStop (addr : BitVec 3) (d0 d1 d2 d3 d4 : Byte)
  | presetsSetResetRecall (addr : BitVec 3) (opCode slot : Byte)
  deriving DecidableEq, Repr

end Sys2Proof
end

