-- ==== Sys2Proof/WellFormed.lean ====
section
/-! DEFINITION. Which instructions an encoding can hold (spec 30_encoding.md). -/

namespace Sys2Proof

/-- The host port carries twelve payload bytes (R87). -/
def HostReq.wf (q : HostReq) : Bool := q.pdata.length == Config.maxPayload

/-- A request frame's payload is 0 to 12 bytes long (R71). Its bytes are not examined (R112). -/
def Request.wf (r : Request) : Bool := r.payload.length ≤ Config.maxPayload

/-- A reply of type `t` is a frame: 3 to 16 bytes (R76, R85) of which only the last is `0xFF` (R70). -/
def Reply.wf (t : Nibble) (r : Reply) : Bool :=
  r.body.length ≤ Config.maxRplPayload && !(r.addrNibble == 0xF && r.lowNibble == 0xF) &&
    !(t == 0xF && r.socket == 0xF) && r.body.all (· != Config.term)

/-- `Other` arises only for a code outside the six named ones (R82). -/
def otherCodeWf (c : Byte) : Bool := !([0x01, 0x02, 0x03, 0x04, 0x05, 0x41] : List Byte).contains c

/-- The instruction's operands fit its encoding. -/
def Instr.wf : Instr → Bool
  | .build q => q.wf
  | .parse _ fdata => fdata.length == Config.maxFrame
  | .nextFrame => true
  | .transact q => q.wf
  | .reset => true
  | .reservedOp0 => true
  | .reservedOp6 => true
  | .reservedOp7 => true
  | .reqCommand r => r.wf
  | .reqInquiry r => r.wf
  | .rplAck r => r.wf 0x4
  | .rplCompletion r => r.wf 0x5
  | .rplError r => r.wf 0x6
  | .rplReservedType0 r => r.wf 0x0
  | .rplReservedType1 r => r.wf 0x1
  | .rplReservedType2 r => r.wf 0x2
  | .rplReservedType3 r => r.wf 0x3
  | .rplReservedType7 r => r.wf 0x7
  | .rplReservedType8 r => r.wf 0x8
  | .rplReservedType9 r => r.wf 0x9
  | .rplReservedTypeA r => r.wf 0xA
  | .rplReservedTypeB r => r.wf 0xB
  | .rplReservedTypeC r => r.wf 0xC
  | .rplReservedTypeD r => r.wf 0xD
  | .rplReservedTypeE r => r.wf 0xE
  | .rplReservedTypeF r => r.wf 0xF
  | .errMsgLength => true
  | .errSyntax => true
  | .errFullBuffer => true
  | .errCanceled => true
  | .errNoSocket => true
  | .errNotExecutable => true
  | .errOther c => otherCodeWf c
  | .catCamera1 => true
  | .catPanTilter => true
  | .powerGet _ => true
  | .powerSet _ _ => true
  | .zoomGet _ => true
  | .zoomSet _ _ => true
  | .panTiltGet _ => true
  | .panTiltSetAbsolute _ _ _ => true
  | .panTiltSetRelative _ _ _ => true
  | .panTiltJogOrStop _ _ _ _ _ _ => true
  | .presetsSetResetRecall _ _ slot => slot ≤ 0x0F

end Sys2Proof
end

