-- ==== Sys2Proof/Decode.lean ====
section
/-! DEFINITION. The encodings of spec 30_encoding.md: the fields of frames, the decoder of each format of
spec/opcode_table.json, and after it the encoder. -/

namespace Sys2Proof

/-! ## Fields of a byte (R9) and nibble encoding (R101) -/

/-- The high nibble `b[7:4]` (R9). -/
def hi4 (b : Byte) : Nibble := b.extractLsb' 4 4

/-- The low nibble `b[3:0]` (R9). -/
def lo4 (b : Byte) : Nibble := b.extractLsb' 0 4

/-- The byte of a high and a low nibble. -/
def joinNibbles (h l : Nibble) : Byte := h ++ l

/-- `nib(v)`: four bytes, most significant nibble first, each in its byte's low 4 bits (R101). -/
def nib (v : BitVec 16) : List Byte :=
  [joinNibbles 0 (v.extractLsb' 12 4), joinNibbles 0 (v.extractLsb' 8 4), joinNibbles 0 (v.extractLsb' 4 4),
    joinNibbles 0 (v.extractLsb' 0 4)]

/-- The decoding of four nibble bytes: their low nibbles, most significant first (R101). -/
def unNib (b0 b1 b2 b3 : Byte) : BitVec 16 := (lo4 b0 ++ lo4 b1 ++ lo4 b2 ++ lo4 b3 : BitVec 16)

/-- The bytes are nibble-encoded: "bytes otherwise zero" (R101). -/
def allNibbles (bs : List Byte) : Bool := bs.all fun b => hi4 b == 0

/-! ## Codes -/

/-- The message-kind byte (R73). -/
def Kind.code : Kind → Byte
  | .command => 0x01
  | .inquiry => 0x09

/-- The 1-bit kind select of the host port, as a byte (R87). -/
def Kind.select : Kind → Byte
  | .command => 0
  | .inquiry => 1

/-- `Enc`: the request encoder (R111), the layout of R71. -/
def enc (a : BitVec 3) (k : Kind) (c : Byte) (p : List Byte) : List Byte :=
  [0x80 ||| a.setWidth 8, k.code, c] ++ p ++ [Config.term]

/-- The bytes of a reply frame of type `t` (R76 to R80). -/
def replyFrame (t : Nibble) (r : Reply) : List Byte :=
  [joinNibbles r.addrNibble r.lowNibble, joinNibbles t r.socket] ++ r.body ++ [Config.term]

/-- The error code of a reply of type 6: byte 2 of the frame, which is the terminator when the frame has length 3
(R81, R118). -/
def Reply.code (r : Reply) : Byte := r.body.headD Config.term

/-! ## Decoding -/

/-- The formats of spec/opcode_table.json: what kind of bytes a row is a pattern of (R83). -/
inductive Format where
  | hostOp
  | request
  | reply
  | errorCode
  | category
  | pseudo
  deriving DecidableEq, Repr

/-- Why bytes are no instruction. -/
inductive DecodeError where
  | noBytes            -- nothing to decode
  | selectorPadding    -- bits 7:3 of the selector byte are not 0: no 3-bit selector (R86)
  | truncatedOperands  -- fewer operand bytes than the operation has (R87)
  | kindPadding        -- the kind byte is neither 0 nor 1 (R87)
  | flenPadding        -- bits 7:5 of the flen byte are not 0 (R87)
  | notARequest        -- byte 0 is not 0x80 to 0x87, or byte 1 is no kind code (R72, R73)
  | frameTooShort      -- fewer bytes than the format's shortest frame (R75, R76)
  | frameTooLong       -- more than 16 bytes (R70)
  | notTerminated      -- the last byte is not 0xFF (R70)
  | innerTerminator    -- a reply byte before the last is 0xFF (R70)
  | notOneByte         -- an error code or category is one byte (R81, R74)
  | notACategory       -- a category code with no row (R74)
  | notACommand        -- a request that no Command Layer operation sends (R92 to R100)
  deriving DecidableEq, Repr

/-- What the decoder answers. -/
inductive Decoded where
  | ok (i : Instr)
  | reject (e : DecodeError)
  deriving DecidableEq, Repr

/-- The operands of BUILD and TRANSACT after the selector byte: addr, kind, cat, plen and twelve payload bytes
(R87). DESIGN CHOICE (log entry 3): one byte per field, in the table's order. -/
def decodeHostReq (mk : HostReq → Instr) : List Byte → Decoded
  | addr :: kind :: cat :: plen :: rest =>
    if rest.length < Config.maxPayload then .reject .truncatedOperands
    else if kind = 0 then .ok (mk ⟨addr, .command, cat, plen, rest.take Config.maxPayload⟩)
    else if kind = 1 then .ok (mk ⟨addr, .inquiry, cat, plen, rest.take Config.maxPayload⟩)
    else .reject .kindPadding
  | _ => .reject .truncatedOperands

/-- The operands of PARSE: flen and sixteen frame bytes (R87). -/
def decodeParse : List Byte → Decoded
  | flen :: rest =>
    if rest.length < Config.maxFrame then .reject .truncatedOperands
    else if 32 ≤ flen.toNat then .reject .flenPadding
    else .ok (.parse (flen.setWidth 5) (rest.take Config.maxFrame))
  | [] => .reject .truncatedOperands

/-- A host-port operation: the 3-bit selector (R86), then the operands (R87). Bytes past an operation's operands
are not read. -/
def decodeHostOp : List Byte → Decoded
  | [] => .reject .noBytes
  | op :: rest =>
    match op.toNat with
    | 0 => .ok .reservedOp0
    | 1 => decodeHostReq .build rest
    | 2 => decodeParse rest
    | 3 => .ok .nextFrame
    | 4 => decodeHostReq .transact rest
    | 5 => .ok .reset
    | 6 => .ok .reservedOp6
    | 7 => .ok .reservedOp7
    | _ => .reject .selectorPadding

/-- The fields of a request frame (R71, R72, R124). -/
def splitRequest (f : List Byte) : Except DecodeError (Kind × Request) :=
  match f with
  | b0 :: b1 :: cat :: rest =>
    if rest = [] then .error .frameTooShort
    else if 13 < rest.length then .error .frameTooLong
    else if rest.getLast? ≠ some Config.term then .error .notTerminated
    else if b0.extractLsb' 3 5 ≠ 0x10 then .error .notARequest
    else if b1 = Kind.code .command then .ok (.command, ⟨b0.setWidth 3, cat, rest.dropLast⟩)
    else if b1 = Kind.code .inquiry then .ok (.inquiry, ⟨b0.setWidth 3, cat, rest.dropLast⟩)
    else .error .notARequest
  | _ => .error .frameTooShort

/-- A request frame (R71): the row is chosen by the kind byte. -/
def decodeRequest (f : List Byte) : Decoded :=
  match splitRequest f with
  | .ok (.command, r) => .ok (.reqCommand r)
  | .ok (.inquiry, r) => .ok (.reqInquiry r)
  | .error e => .reject e

/-- The row of a reply type (R79, R84). -/
def replyRow (t : Nibble) (r : Reply) : Instr :=
  match t.toNat with
  | 0 => .rplReservedType0 r
  | 1 => .rplReservedType1 r
  | 2 => .rplReservedType2 r
  | 3 => .rplReservedType3 r
  | 4 => .rplAck r
  | 5 => .rplCompletion r
  | 6 => .rplError r
  | 7 => .rplReservedType7 r
  | 8 => .rplReservedType8 r
  | 9 => .rplReservedType9 r
  | 10 => .rplReservedTypeA r
  | 11 => .rplReservedTypeB r
  | 12 => .rplReservedTypeC r
  | 13 => .rplReservedTypeD r
  | 14 => .rplReservedTypeE r
  | _ => .rplReservedTypeF r

/-- A reply frame (R76): the row is chosen by the high nibble of byte 1 (R79). -/
def decodeReply : List Byte → Decoded
  | b0 :: b1 :: rest =>
    if rest = [] then .reject .frameTooShort
    else if 14 < rest.length then .reject .frameTooLong
    else if rest.getLast? ≠ some Config.term then .reject .notTerminated
    else if (b0 :: b1 :: rest.dropLast).any (· == Config.term) then .reject .innerTerminator
    else .ok (replyRow (hi4 b1) ⟨hi4 b0, lo4 b0, lo4 b1, rest.dropLast⟩)
  | _ => .reject .frameTooShort

/-- An error code (R81); the map is total (R82). -/
def decodeErrorCode : List Byte → Decoded
  | [c] =>
    .ok (if c = 0x01 then .errMsgLength else if c = 0x02 then .errSyntax else if c = 0x03 then .errFullBuffer
      else if c = 0x04 then .errCanceled else if c = 0x05 then .errNoSocket
      else if c = 0x41 then .errNotExecutable else .errOther c)
  | _ => .reject .notOneByte

/-- A category code (R74). -/
def decodeCategory : List Byte → Decoded
  | [c] => if c = 0x04 then .ok .catCamera1 else if c = 0x06 then .ok .catPanTilter else .reject .notACategory
  | _ => .reject .notOneByte

/-- The Command Layer inquiry with this category and payload byte (R92, R94, R96). -/
def pseudoInquiry (a : BitVec 3) (cat b : Byte) : Decoded :=
  if cat = 0x04 ∧ b = 0x00 then .ok (.powerGet a)
  else if cat = 0x04 ∧ b = 0x47 then .ok (.zoomGet a)
  else if cat = 0x06 ∧ b = 0x12 then .ok (.panTiltGet a)
  else .reject .notACommand

/-- The Command Layer command with this category and payload (R93, R95, R97 to R100). -/
def pseudoCommand (a : BitVec 3) (cat : Byte) : List Byte → Decoded
  | [b, v] => if cat = 0x04 ∧ b = 0x00 then .ok (.powerSet a v) else .reject .notACommand
  | [b, o, slot] =>
    if cat = 0x04 ∧ b = 0x3F ∧ slot ≤ 0x0F then .ok (.presetsSetResetRecall a o slot) else .reject .notACommand
  | [d0, d1, d2, d3, d4] =>
    if cat = 0x04 ∧ d0 = 0x47 ∧ allNibbles [d1, d2, d3, d4] then .ok (.zoomSet a (unNib d1 d2 d3 d4))
    else if cat = 0x06 then .ok (.panTiltJogOrStop a d0 d1 d2 d3 d4)
    else .reject .notACommand
  | [m, x, y, p0, p1, p2, p3, t0, t1, t2, t3] =>
    if cat = 0x06 ∧ x = 0x01 ∧ y = 0x00 ∧ allNibbles [p0, p1, p2, p3, t0, t1, t2, t3] then
      if m = 0x02 then .ok (.panTiltSetAbsolute a (unNib p0 p1 p2 p3) (unNib t0 t1 t2 t3))
      else if m = 0x03 then .ok (.panTiltSetRelative a (unNib p0 p1 p2 p3) (unNib t0 t1 t2 t3))
      else .reject .notACommand
    else .reject .notACommand
  | _ => .reject .notACommand

/-- A Command Layer operation, read from the request frame it sends (R91 to R100). -/
def decodePseudo (f : List Byte) : Decoded :=
  match splitRequest f with
  | .ok (.inquiry, ⟨a, cat, [b]⟩) => pseudoInquiry a cat b
  | .ok (.inquiry, _) => .reject .notACommand
  | .ok (.command, r) => pseudoCommand r.addr r.cat r.payload
  | .error e => .reject e

/-- The decoder: total on any bytes, in each format of the table (R83). -/
def decode (fmt : Format) (bs : List Byte) : Decoded :=
  match fmt with
  | .hostOp => decodeHostOp bs
  | .request => decodeRequest bs
  | .reply => decodeReply bs
  | .errorCode => decodeErrorCode bs
  | .category => decodeCategory bs
  | .pseudo => decodePseudo bs

/-- The instruction decoded, if any. -/
def Decoded.instr? : Decoded → Option Instr
  | .ok i => some i
  | .reject _ => none

/-! ## Words of the opcode table -/

/-- The format in which a bare table word is read, with the bytes it stands for. The table's formats are patterns of
different things and their words overlap, so a word alone does not name its row; DESIGN CHOICE (log entry 17): a
word below 8 of at most 8 bits is a host-op selector, any other of at most 8 bits is byte 1 of a reply, and a
16-bit word is a header word `H = f[0] * 256 + f[1]` (R83), a request where byte 0 is 0x80 to 0x87 and byte 1 a kind
code, and a reply otherwise. Operands are zeros; a frame is closed by its terminator. -/
def tableWord (nbits w : Nat) : Option (Format × List Byte) :=
  if nbits ≤ 8 then
    if w < 8 then some (.hostOp, BitVec.ofNat 8 w :: List.replicate 17 0)
    else if w < 256 then some (.reply, [0, BitVec.ofNat 8 w, Config.term])
    else none
  else if nbits = 16 then
    if w % 65536 &&& 0xF8FF = 0x8001 ∨ w % 65536 &&& 0xF8FF = 0x8009 then
      some (.request, [BitVec.ofNat 8 (w / 256), BitVec.ofNat 8 w, 0, Config.term])
    else some (.reply, [BitVec.ofNat 8 (w / 256), BitVec.ofNat 8 w, Config.term])
  else none

/-- The instruction the decoder reads from a word of the opcode table. -/
def decodeTableWord (nbits w : Nat) : Option Instr :=
  match tableWord nbits w with
  | some (fmt, bs) => (decode fmt bs).instr?
  | none => none

/-! ## Encoding -/

/-- The host-port bytes of BUILD and TRANSACT (R86, R87). -/
def encodeHostReq (op : Byte) (q : HostReq) : List Byte :=
  [op, q.addr, q.kind.select, q.cat, q.plen] ++ q.pdata

/-- The format of an instruction's row. -/
def formatOf : Instr → Format
  | .build _ => .hostOp
  | .parse _ _ => .hostOp
  | .nextFrame => .hostOp
  | .transact _ => .hostOp
  | .reset => .hostOp
  | .reservedOp0 => .hostOp
  | .reservedOp6 => .hostOp
  | .reservedOp7 => .hostOp
  | .reqCommand _ => .request
  | .reqInquiry _ => .request
  | .rplAck _ => .reply
  | .rplCompletion _ => .reply
  | .rplError _ => .reply
  | .rplReservedType0 _ => .reply
  | .rplReservedType1 _ => .reply
  | .rplReservedType2 _ => .reply
  | .rplReservedType3 _ => .reply
  | .rplReservedType7 _ => .reply
  | .rplReservedType8 _ => .reply
  | .rplReservedType9 _ => .reply
  | .rplReservedTypeA _ => .reply
  | .rplReservedTypeB _ => .reply
  | .rplReservedTypeC _ => .reply
  | .rplReservedTypeD _ => .reply
  | .rplReservedTypeE _ => .reply
  | .rplReservedTypeF _ => .reply
  | .errMsgLength => .errorCode
  | .errSyntax => .errorCode
  | .errFullBuffer => .errorCode
  | .errCanceled => .errorCode
  | .errNoSocket => .errorCode
  | .errNotExecutable => .errorCode
  | .errOther _ => .errorCode
  | .catCamera1 => .category
  | .catPanTilter => .category
  | .powerGet _ => .pseudo
  | .powerSet _ _ => .pseudo
  | .zoomGet _ => .pseudo
  | .zoomSet _ _ => .pseudo
  | .panTiltGet _ => .pseudo
  | .panTiltSetAbsolute _ _ _ => .pseudo
  | .panTiltSetRelative _ _ _ => .pseudo
  | .panTiltJogOrStop _ _ _ _ _ _ => .pseudo
  | .presetsSetResetRecall _ _ _ => .pseudo

/-- The request a Command Layer operation sends, its kind, category and payload (R92 to R100). -/
def pseudoRequest : Instr → Option (Kind × Request)
  | .powerGet a => some (.inquiry, ⟨a, 0x04, [0x00]⟩)
  | .powerSet a v => some (.command, ⟨a, 0x04, [0x00, v]⟩)
  | .zoomGet a => some (.inquiry, ⟨a, 0x04, [0x47]⟩)
  | .zoomSet a v => some (.command, ⟨a, 0x04, 0x47 :: nib v⟩)
  | .panTiltGet a => some (.inquiry, ⟨a, 0x06, [0x12]⟩)
  | .panTiltSetAbsolute a pan tilt => some (.command, ⟨a, 0x06, [0x02, 0x01, 0x00] ++ nib pan ++ nib tilt⟩)
  | .panTiltSetRelative a pan tilt => some (.command, ⟨a, 0x06, [0x03, 0x01, 0x00] ++ nib pan ++ nib tilt⟩)
  | .panTiltJogOrStop a d0 d1 d2 d3 d4 => some (.command, ⟨a, 0x06, [d0, d1, d2, d3, d4]⟩)
  | .presetsSetResetRecall a o slot => some (.command, ⟨a, 0x04, [0x3F, o, slot &&& 0x0F]⟩)
  | _ => none

/-- The frame of a Command Layer operation (R91). -/
def encodePseudo (i : Instr) : List Byte :=
  match pseudoRequest i with
  | some (k, r) => enc r.addr k r.cat r.payload
  | none => []

/-- The encoder: the bytes of an instruction in its own format. -/
def encode : Instr → List Byte
  | .build q => encodeHostReq 1 q
  | .parse flen fdata => [2, flen.setWidth 8] ++ fdata
  | .nextFrame => [3]
  | .transact q => encodeHostReq 4 q
  | .reset => [5]
  | .reservedOp0 => [0]
  | .reservedOp6 => [6]
  | .reservedOp7 => [7]
  | .reqCommand r => enc r.addr .command r.cat r.payload
  | .reqInquiry r => enc r.addr .inquiry r.cat r.payload
  | .rplAck r => replyFrame 0x4 r
  | .rplCompletion r => replyFrame 0x5 r
  | .rplError r => replyFrame 0x6 r
  | .rplReservedType0 r => replyFrame 0x0 r
  | .rplReservedType1 r => replyFrame 0x1 r
  | .rplReservedType2 r => replyFrame 0x2 r
  | .rplReservedType3 r => replyFrame 0x3 r
  | .rplReservedType7 r => replyFrame 0x7 r
  | .rplReservedType8 r => replyFrame 0x8 r
  | .rplReservedType9 r => replyFrame 0x9 r
  | .rplReservedTypeA r => replyFrame 0xA r
  | .rplReservedTypeB r => replyFrame 0xB r
  | .rplReservedTypeC r => replyFrame 0xC r
  | .rplReservedTypeD r => replyFrame 0xD r
  | .rplReservedTypeE r => replyFrame 0xE r
  | .rplReservedTypeF r => replyFrame 0xF r
  | .errMsgLength => [0x01]
  | .errSyntax => [0x02]
  | .errFullBuffer => [0x03]
  | .errCanceled => [0x04]
  | .errNoSocket => [0x05]
  | .errNotExecutable => [0x41]
  | .errOther c => [c]
  | .catCamera1 => [0x04]
  | .catPanTilter => [0x06]
  | .powerGet a => encodePseudo (.powerGet a)
  | .powerSet a v => encodePseudo (.powerSet a v)
  | .zoomGet a => encodePseudo (.zoomGet a)
  | .zoomSet a v => encodePseudo (.zoomSet a v)
  | .panTiltGet a => encodePseudo (.panTiltGet a)
  | .panTiltSetAbsolute a pan tilt => encodePseudo (.panTiltSetAbsolute a pan tilt)
  | .panTiltSetRelative a pan tilt => encodePseudo (.panTiltSetRelative a pan tilt)
  | .panTiltJogOrStop a d0 d1 d2 d3 d4 => encodePseudo (.panTiltJogOrStop a d0 d1 d2 d3 d4)
  | .presetsSetResetRecall a o slot => encodePseudo (.presetsSetResetRecall a o slot)

end Sys2Proof
end

