-- ==== Sys2Proof/Machine/State.lean ====
section
/-! DEFINITION. The state of VPE-CORE (spec 10_state.md), its reset value (R35), and the reasons a step can stop. -/

namespace Sys2Proof.Machine

/-- The sequencer state `seq` (R24). The codes 5 and 6 are never entered and have no constructor. -/
inductive Seq where
  | idle
  | tx
  | rx1
  | rx2
  | rxf
  | fault
  deriving DecidableEq, Repr

/-- The 3-bit value of `seq` (R24). -/
def Seq.code : Seq → BitVec 3
  | .idle => 0
  | .tx => 1
  | .rx1 => 2
  | .rx2 => 3
  | .rxf => 4
  | .fault => 7

/-- The result codes (R211). Every other `res_code` value is never written and has no constructor. -/
inductive ResCode where
  | ok
  | deviceError
  | protoFrameTooShort
  | protoUnknownReplyType
  | protoUnexpectedReply
  | resourceBufferFull
  | transport
  | precondPayloadTooLong
  | precondAddressOutOfRange
  | faulted
  | illegalOp
  | none
  deriving DecidableEq, Repr

/-- The 8-bit value of `res_code` (R211). -/
def ResCode.code : ResCode → Byte
  | .ok => 0x00
  | .deviceError => 0x01
  | .protoFrameTooShort => 0x10
  | .protoUnknownReplyType => 0x11
  | .protoUnexpectedReply => 0x12
  | .resourceBufferFull => 0x20
  | .transport => 0x30
  | .precondPayloadTooLong => 0x40
  | .precondAddressOutOfRange => 0x41
  | .faulted => 0x50
  | .illegalOp => 0x51
  | .none => 0xFE

/-- PARSE's `res_class` (R27). -/
inductive ResClass where
  | ack
  | completion
  | error
  | noValue
  deriving DecidableEq, Repr

/-- The 2-bit value of `res_class` (R27). -/
def ResClass.code : ResClass → BitVec 2
  | .ack => 0
  | .completion => 1
  | .error => 2
  | .noValue => 3

/-- The 2-bit field `fault_cause` (R29). -/
inductive FaultCause where
  | none
  | payloadTooLong
  | addressOutOfRange
  deriving DecidableEq, Repr

/-- The 2-bit value of `fault_cause` (R29). -/
def FaultCause.code : FaultCause → BitVec 2
  | .none => 0
  | .payloadTooLong => 1
  | .addressOutOfRange => 2

/-- Channel errors, `ChanErr` (R7, D25): three distinguished values, and the others by number. -/
inductive ChanErr where
  | io
  | timeout
  | closed
  | other (n : Nat)
  deriving DecidableEq, Repr

/-- The channel's answer to one transaction (R10, R90, R224). -/
inductive ChanAnswer where
  | wrote (n : Nat)
  | werr (e : ChanErr)
  | bytes (bs : List Byte)
  | zero
  | interrupted
  | rerr (e : ChanErr)
  deriving DecidableEq, Repr

/-- A channel transaction the block has made (R53): the frame written, or the most bytes asked for. -/
inductive ChanTxn where
  | write (frame : List Byte)
  | read (max : Nat)
  deriving DecidableEq, Repr

/-- One operation of the host's program (R252): bytes for the host port (R86, R87), or a Command Layer operation,
given by the request frame it sends (R91). -/
inductive HostWord where
  | op (bytes : List Byte)
  | command (frame : List Byte)
  deriving DecidableEq, Repr

/-- The machine's state. The block's registers are those of spec 10_state.md; a cell that is `none` holds no value
(R21, R26, R35; log entry 8). The four fields before the last are the other agents' part: the host's program, the channel's
script, the transactions made, and the power-on reset input; the last is the machine's configuration. -/
structure State where
  /-- `rx_buf`, 16 cells (R21). -/
  rxBuf : List (Option Byte)
  /-- `rx_cnt`, 0..16 (R22). -/
  rxCnt : Nat
  /-- `seq` (R24). -/
  seq : Seq
  /-- `tx_frame`, 16 cells (R26). -/
  txFrame : List (Option Byte)
  /-- `tx_len`, 4..16 or no value (R26). -/
  txLen : Option Nat
  /-- `res_code` (R27, R211). -/
  resCode : ResCode
  /-- `res_detail` (R27, R211). -/
  resDetail : Byte
  /-- `res_len`, 0..16 (R27). -/
  resLen : Nat
  /-- `res_data`, 16 cells (R27). -/
  resData : List (Option Byte)
  /-- `res_class` (R27). -/
  resClass : ResClass
  /-- `res_addr` (R27). -/
  resAddr : Option Nibble
  /-- `res_socket` (R27). -/
  resSocket : Option Nibble
  /-- `suspect` (R28). -/
  suspect : Bool
  /-- `fault_cause` (R29). -/
  faultCause : FaultCause
  /-- The host's remaining operations (R252). DESIGN CHOICE (log entry 2). -/
  host : List HostWord
  /-- The channel's remaining answers (R90, R252). DESIGN CHOICE (log entry 4). -/
  script : List ChanAnswer
  /-- The channel transactions made so far, oldest first (R252's observation holds the writes). DESIGN CHOICE (log
  entry 6). -/
  issued : List ChanTxn
  /-- The power-on reset input is asserted (R240). DESIGN CHOICE (log entry 7). -/
  powerOn : Bool
  /-- The category codes by which the machine extends the default of `CATEGORY_CODES` (R7, R74, D9). Configuration, no
  register of the block (R31): no step writes it. DESIGN CHOICE (log entry 12). -/
  extraCategories : List Byte
  deriving DecidableEq, Repr

/-- Sixteen cells that hold no value (R35). -/
def noCells : List (Option Byte) := List.replicate Config.bufCap none

/-- The machine right after reset (R35, R240). The block's values are the spec's; the other agents hold nothing
(log entry 22). -/
def State.reset : State where
  rxBuf := noCells
  rxCnt := 0
  seq := .idle
  txFrame := noCells
  txLen := none
  resCode := .none
  resDetail := 0
  resLen := 0
  resData := noCells
  resClass := .noValue
  resAddr := none
  resSocket := none
  suspect := false
  faultCause := .none
  host := []
  script := []
  issued := []
  powerOn := false
  extraCategories := []

/-- `CATEGORY_CODES` (R7, R74): the default, and what this machine extends it by. -/
def State.categoryCodes (s : State) : List Byte := Config.defaultCategoryCodes ++ s.extraCategories

/-- What stops the machine: a read of something that holds no value (R21, R55, I5). No rule of the spec makes such
a read; every state that `Inv` admits is free of it. -/
inductive Fault where
  /-- Raised by the receive step when a cell below `rx_cnt` holds no value, or by a buffer read at or beyond `rx_cnt`
  (R55). Safe: the spec asks a model to fault there. -/
  | rxNoValue
  /-- Raised by the transmit step when `tx_len` or a cell of `tx_frame` below it holds no value (R26, I5). Safe. -/
  | txNoValue
  deriving DecidableEq, Repr

/-- Inputs without a meaning. -/
inductive Refusal where
  /-- An instruction whose arm has no meaning yet. Safe. -/
  | notModelled (mnemonic : String)
  /-- Raised by BUILD, TRANSACT and the operations that expand to it, for a category outside `CATEGORY_CODES` (R74,
  R110, R217). Safe. -/
  | categoryNotAdmitted
  /-- Raised by PARSE when `flen > 16` (R121, R217). Safe. -/
  | frameTooLongForPort
  /-- Raised by PARSE for a frame of 3 bytes or more that does not end in `0xFF` (R121, R217). Safe. -/
  | notTerminated
  /-- Raised by a host operation's meaning when an operation is in progress: the host has no such move (R202, D22).
  The step never presents one. Safe for the block; log entry 16 says what it leaves out. -/
  | operationInProgress
  /-- Raised by the fetch for a host word or a latched frame that no instruction encodes: the port's fields cannot
  present it (R86, R87). Safe. -/
  | undecodable (e : DecodeError)
  /-- Raised by the transmit step when the script has no answer to its write: a transaction returns exactly one answer
  (R57), and the block has no waiting state but the `ChanRead` of RX1, RX2 and RXF (R204, R226). Safe (log entry 4). -/
  | writeUnanswered
  /-- Raised by a channel transaction when the script's next answer has not the shape of R224. Safe: the channel
  never gives it. -/
  | channelAnswerShape
  deriving DecidableEq, Repr

/-- The outcome of a step. -/
abbrev Out := Host.Outcome State Fault Refusal

end Sys2Proof.Machine
end

