-- ==== Sys2Proof/Machine/Flags.lean ====
section
/-! DEFINITION. The two flags of the block: `suspect` (spec R28, R180) and `fault_cause` (R29, R216). The block has no
condition codes (R30). -/

namespace Sys2Proof.Machine

/-- The codes that make TRANSACT set `suspect`: transport, protocol and resource errors (R180). -/
def marksSuspect : ResCode → Bool
  | .ok => false
  | .deviceError => false
  | .protoFrameTooShort => true
  | .protoUnknownReplyType => true
  | .protoUnexpectedReply => true
  | .resourceBufferFull => true
  | .transport => true
  | .precondPayloadTooLong => false
  | .precondAddressOutOfRange => false
  | .faulted => false
  | .illegalOp => false
  | .none => false

/-- `suspect` after TRANSACT ends with a code: sticky, set by the codes of R180 (R28). -/
def suspectAfter (c : ResCode) (old : Bool) : Bool := old || marksSuspect c

/-- The result code of a fault cause (R216). -/
def faultResCode : FaultCause → ResCode
  | .none => .none
  | .payloadTooLong => .precondPayloadTooLong
  | .addressOutOfRange => .precondAddressOutOfRange

end Sys2Proof.Machine
end

