-- ==== Sys2Proof/Machine/Operands.lean ====
section
/-! DEFINITION. The pure functions of FC on frames: error kinds (spec R81, R82), classification (R114 to R118), the
reply accessors (R119, R120), the operand checks of BUILD and TRANSACT, and the detail byte of a channel error (R211). -/

namespace Sys2Proof.Machine

/-- ErrorKind (R81): six named kinds, and `Other` carrying the raw code. -/
inductive ErrorKind where
  | msgLength
  | syntaxError
  | fullBuffer
  | canceled
  | noSocket
  | notExecutable
  | other (c : Byte)
  deriving DecidableEq, Repr

/-- The kind of an error code: total (R81, R82). -/
def errorKindOf (c : Byte) : ErrorKind :=
  if c = 0x01 then .msgLength
  else if c = 0x02 then .syntaxError
  else if c = 0x03 then .fullBuffer
  else if c = 0x04 then .canceled
  else if c = 0x05 then .noSocket
  else if c = 0x41 then .notExecutable
  else .other c

/-- The code a kind stands for (R81). -/
def errorCodeOf : ErrorKind → Byte
  | .msgLength => 0x01
  | .syntaxError => 0x02
  | .fullBuffer => 0x03
  | .canceled => 0x04
  | .noSocket => 0x05
  | .notExecutable => 0x41
  | .other c => c

/-- What `Classify` answers (R114, R115). -/
inductive ReplyClass where
  | tooShort (len : Nat)
  | notTerminated
  | unknownType (t : Nibble)
  | ack
  | completion (payload : List Byte)
  | error (code : Byte)
  deriving DecidableEq, Repr

/-- `Classify` (R114 to R118): length first, then the terminator, then the type nibble of byte 1. Byte 0 and the
socket take no part. -/
def classify : List Byte → ReplyClass
  | _ :: b1 :: b2 :: rest =>
    if (b2 :: rest).getLast? ≠ some Config.term then .notTerminated
    else if hi4 b1 = 0x4 then .ack
    else if hi4 b1 = 0x5 then .completion (b2 :: rest).dropLast
    else if hi4 b1 = 0x6 then .error b2
    else .unknownType (hi4 b1)
  | f => .tooShort f.length

/-- The address accessor's answer (R119): an address, or the failure that carries the nibble. -/
inductive AddressResult where
  | address (a : BitVec 3)
  | addressUnderflow (n : Nibble)
  deriving DecidableEq, Repr

/-- The address accessor on the raw nibble in `res_addr` (R77, R119): never a wrapped number. -/
def addressOfNibble (n : Nibble) : AddressResult :=
  if 8 ≤ n.toNat then .address (BitVec.ofNat 3 (n.toNat - 8)) else .addressUnderflow n

/-- The address accessor of a parsed reply (R119). -/
def addressOf (f : List Byte) : AddressResult := addressOfNibble (hi4 (f.getD 0 0))

/-- The socket accessor of a parsed reply (R78, R120). -/
def socketOf (f : List Byte) : Nibble := lo4 (f.getD 1 0)

/-- The category code is in the machine's `CATEGORY_CODES` (R74). -/
def admitted (cat : Byte) (s : State) : Bool := s.categoryCodes.contains cat

/-- The payload bytes an operation reads: `pdata[0 .. plen]` (R87). -/
def payloadRead (q : HostReq) : List Byte := q.pdata.take q.plen.toNat

/-- The frame BUILD and TRANSACT serialise (R110, R111, R171). -/
def requestFrame (q : HostReq) : List Byte := enc (q.addr.setWidth 3) q.kind q.cat (payloadRead q)

/-- The operands of the TRANSACT that sends a request (R91): the payload bytes not read are 0. -/
def hostReqOf (k : Kind) (r : Request) : HostReq where
  addr := r.addr.setWidth 8
  kind := k
  cat := r.cat
  plen := BitVec.ofNat 8 r.payload.length
  pdata := r.payload ++ List.replicate (Config.maxPayload - r.payload.length) 0

/-- `res_detail` of a channel error (R211, R212): IO 0, TIMEOUT 1, CLOSED 2, any other by `chan_err_code` in 4..255
(D25; log entry 14). -/
def chanErrDetail : ChanErr → Byte
  | .io => 0
  | .timeout => 1
  | .closed => 2
  | .other n => BitVec.ofNat 8 ((Config.chanErrOther n).val + 4)

/-- `res_detail` of a write that was not written whole (R172, R211, R212). -/
def partialWriteDetail : Byte := 3

end Sys2Proof.Machine
end

