-- ==== Sys2Proof/Machine/Ops.lean ====
section
/-! DEFINITION. The shared operations: cells (spec R21, R26, R27), the buffer primitives (R55, R56, R142, R145), the
channel's transactions (R53, R57), the ends of an operation (R110, R113, R140, R170), the FAULT entry (R216) and the
return from it (R200), and what the host may read (R27, R31). -/

namespace Sys2Proof.Machine

/-! ## Cells -/

/-- The first `n` cells, when each holds a value. -/
def readCells : Nat → List (Option Byte) → Option (List Byte)
  | 0, _ => some []
  | _ + 1, [] => none
  | _ + 1, none :: _ => none
  | n + 1, some b :: cs => (readCells n cs).map (b :: ·)

/-- `reg[0 .. len(bs)] <- bs`: the first cells written, the others kept. -/
def overlay (bs : List Byte) (cells : List (Option Byte)) : List (Option Byte) :=
  bs.map some ++ cells.drop bs.length

/-- Sixteen cells that hold these bytes, and after them no value (R21). -/
def cellsOf (bs : List Byte) : List (Option Byte) :=
  bs.map some ++ List.replicate (Config.bufCap - bs.length) none

/-! ## The receive buffer -/

/-- `BufRead(i)` (R55): a cell at or beyond `rx_cnt` has no value. -/
def bufRead (i : Nat) (s : State) : Option Byte :=
  if i < s.rxCnt then (s.rxBuf[i]?).join else none

/-- `BufWrite(i, v)` (R55). -/
def bufWrite (i : Nat) (v : Byte) (s : State) : State := { s with rxBuf := s.rxBuf.set i (some v) }

/-- `Append(s)` (R145): each byte goes to the cell at `rx_cnt`, and the count rises. -/
def append : List Byte → State → State
  | [], s => s
  | b :: bs, s =>
    let w := bufWrite s.rxCnt b s
    append bs { w with rxCnt := s.rxCnt + 1 }

/-- `Shift(k)` (R56): the held bytes from `k` on move to the front; the cells past the new count hold no value (R21;
log entry 20). -/
def shift (k : Nat) (s : State) : State :=
  let rest := (s.rxBuf.take s.rxCnt).drop k
  { s with rxBuf := rest ++ List.replicate (Config.bufCap - rest.length) none, rxCnt := s.rxCnt - k }

/-- The held bytes `rx_buf[0 .. rx_cnt]` (R22), when each cell holds a value. -/
def held (s : State) : Option (List Byte) := readCells s.rxCnt s.rxBuf

/-- `FirstTerm()` (R141): the least index of a terminator. -/
def firstTerm : List Byte → Option Nat
  | [] => none
  | b :: bs => if b = Config.term then some 0 else (firstTerm bs).map (· + 1)

/-! ## Ends of an operation -/

/-- Result bytes and OK: `res_data`, `res_len`, `res_code`, `res_detail` (R110, R140, R170). -/
def setOk (bs : List Byte) (s : State) : State :=
  { s with resData := overlay bs s.resData, resLen := bs.length, resCode := .ok, resDetail := 0 }

/-- An error result: `res_code` and `res_detail` only (R113, R219). -/
def setError (c : ResCode) (d : Byte) (s : State) : State := { s with resCode := c, resDetail := d }

/-- `EndOK(P)` of TRANSACT (R170), which also ends NEXT_FRAME with its frame (R140). -/
def endOk (bs : List Byte) (s : State) : State :=
  let r := setOk bs s
  { r with seq := .idle }

/-- `End(code, det)` of TRANSACT (R170): `suspect` by R180, and `seq` returns to IDLE (R179). -/
def endError (c : ResCode) (d : Byte) (s : State) : State :=
  let r := setError c d s
  { r with suspect := suspectAfter c s.suspect, seq := .idle }

/-- A failure of the receive step (R140, R173, R175): NEXT_FRAME ends without touching `suspect` (R152), TRANSACT ends
by `End`. -/
def receiveFail (c : ResCode) (d : Byte) (s : State) : State :=
  match s.seq with
  | .rxf =>
    let r := setError c d s
    { r with seq := .idle }
  | _ => endError c d s

/-! ## The FAULT entry and the return from it -/

/-- The FAULT entry (R216): the one exception of the block. It saves the cause and the offending value, and `seq`
becomes FAULT; there is no vector (R219). -/
def enterFault (c : FaultCause) (v : Byte) (s : State) : State :=
  { s with faultCause := c, resCode := faultResCode c, resDetail := v, seq := .fault }

/-- The reset of the block (R35, R200): every register to its reset value. It is also the only way out of FAULT
(R203). The other agents are not touched (R245). -/
def resetBlock (s : State) : State :=
  { State.reset with
    host := s.host, script := s.script, issued := s.issued, powerOn := s.powerOn, extraCategories := s.extraCategories }

/-- Power-on reset (R240): the block's reset in any state; the operation in progress is abandoned and writes no
result. The input is taken. -/
def powerOnReset (s : State) : State :=
  let r := resetBlock s
  { r with powerOn := false }

/-- An operation other than RESET in FAULT (R203). -/
def faulted (s : State) : State := setError .faulted (s.faultCause.code.setWidth 8) s

/-- A reserved selector in IDLE (R88). -/
def illegalOp (op : Byte) (s : State) : State := setError .illegalOp op s

/-- The issue check (R202, R203): an operation runs in IDLE, answers FAULTED in FAULT, and cannot be issued while
another is in progress. -/
def issue (s : State) (run : Out) : Out :=
  match s.seq with
  | .idle => run
  | .fault => .next (faulted s)
  | .tx => .refused .operationInProgress
  | .rx1 => .refused .operationInProgress
  | .rx2 => .refused .operationInProgress
  | .rxf => .refused .operationInProgress

/-- The build phase (R110, R171), in the order of R218: the category, the payload length, the address, then the
frame. -/
def buildPhase (q : HostReq) (s : State) (run : List Byte → Out) : Out :=
  if admitted q.cat s = false then .refused .categoryNotAdmitted
  else if Config.maxPayload < q.plen.toNat then .next (enterFault .payloadTooLong q.plen s)
  else if 7 < q.addr.toNat then .next (enterFault .addressOutOfRange q.addr s)
  else run (requestFrame q)

/-! ## Channel transactions -/

/-- One channel transaction made and answered (R57). -/
def transacted (t : ChanTxn) (rest : List ChanAnswer) (s : State) : State :=
  { s with issued := s.issued ++ [t], script := rest }

/-- `ChanWrite(f)` and what PS does with its answer (R172). With no answer there is no step: TX is no waiting
state (R226; log entry 4). -/
def chanWrite (f : List Byte) (s : State) : Out :=
  match s.script with
  | [] => .refused .writeUnanswered
  | .wrote n :: rest =>
    let t := transacted (.write f) rest s
    if n = f.length then .next { t with seq := .rx1 }
    else if n < f.length then .next (endError .transport partialWriteDetail t)
    else .refused .channelAnswerShape
  | .werr e :: rest => .next (endError .transport (chanErrDetail e) (transacted (.write f) rest s))
  | .bytes _ :: _ => .refused .channelAnswerShape
  | .zero :: _ => .refused .channelAnswerShape
  | .interrupted :: _ => .refused .channelAnswerShape
  | .rerr _ :: _ => .refused .channelAnswerShape

/-- `ChanRead(BUF_CAP - rx_cnt)` and what SR does with its answer (R143 to R146, R149). With no answer left the block
waits, and nothing changes (R226; log entry 4). -/
def chanRead (s : State) : Out :=
  let max := Config.bufCap - s.rxCnt
  match s.script with
  | [] => .next s
  | .interrupted :: rest => .next (transacted (.read max) rest s)
  | .bytes bs :: rest =>
    if 1 ≤ bs.length ∧ bs.length ≤ max then .next (append bs (transacted (.read max) rest s))
    else .refused .channelAnswerShape
  | .zero :: rest => .next (receiveFail .transport (chanErrDetail .closed) (transacted (.read max) rest s))
  | .rerr e :: rest => .next (receiveFail .transport (chanErrDetail e) (transacted (.read max) rest s))
  | .wrote _ :: _ => .refused .channelAnswerShape
  | .werr _ :: _ => .refused .channelAnswerShape

/-! ## What the host reads -/

/-- The status view (R31): what the host may read at any time. The held byte values are not in it (R34). -/
structure StatusView where
  seq        : Seq
  rxCnt      : Nat
  suspect    : Bool
  faultCause : FaultCause
  resCode    : ResCode
  resDetail  : Byte
  resLen     : Nat
  resData    : List (Option Byte)
  resClass   : ResClass
  resAddr    : Option Nibble
  resSocket  : Option Nibble
  deriving DecidableEq, Repr

/-- Reading the status view has no effect (R225): it is a function of the state. -/
def State.statusView (s : State) : StatusView where
  seq := s.seq
  rxCnt := s.rxCnt
  suspect := s.suspect
  faultCause := s.faultCause
  resCode := s.resCode
  resDetail := s.resDetail
  resLen := s.resLen
  resData := s.resData
  resClass := s.resClass
  resAddr := s.resAddr
  resSocket := s.resSocket

/-- The valid result bytes: the first `res_len` of `res_data` (R27). -/
def State.resultBytes (s : State) : Option (List Byte) := readCells s.resLen s.resData

/-- The operations of the host port, as the host names them when it reads a result (R27). -/
inductive HostOp where
  | build
  | parse
  | nextFrame
  | transact
  | reset
  | reserved
  deriving DecidableEq, Repr

/-- The registers an operation's rule names, and no others (R27; log entry 9): `none` where the host may not rely
on a value. -/
structure ResultView where
  code   : ResCode
  detail : Byte
  data   : Option (List Byte)
  cls    : Option ResClass
  addr   : Option Nibble
  socket : Option Nibble
  deriving DecidableEq, Repr

/-- What the host may read after an operation (R27). -/
def State.resultView (op : HostOp) (s : State) : ResultView :=
  let ok := s.resCode = .ok
  let parsed := ok ∧ op = .parse
  { code := s.resCode
    detail := s.resDetail
    data := if ok then s.resultBytes else none
    cls := if parsed then some s.resClass else none
    addr := if parsed then s.resAddr else none
    socket := if parsed then s.resSocket else none }

/-- The frames written: the observation of R252 beside the status view. -/
def State.framesWritten (s : State) : List (List Byte) :=
  s.issued.filterMap fun
    | .write f => some f
    | .read _ => none

/-- The kind of the device error reported, which the host may branch on (R213). -/
def State.deviceErrorKind (s : State) : Option ErrorKind :=
  if s.resCode = .deviceError then some (errorKindOf s.resDetail) else none

end Sys2Proof.Machine
end

