-- ==== Sys2Proof/Machine/Codec.lean ====
section
/-! DEFINITION. FC's host operations BUILD and PARSE (spec 40_codec.md R110, R113), and the category rows (R74). -/

namespace Sys2Proof.Machine

/-- BUILD (R110): serialise one request frame into the result registers. -/
def execBuild (q : HostReq) (s : State) : Out :=
  issue s (buildPhase q s fun f => .next (setOk f s))

/-- The end of PARSE on a frame it accepts (R113): the class, the bytes it reports if any, the raw address nibble and
the socket (R119, R120). -/
def parsed (f : List Byte) (c : ResClass) (p : Option (List Byte)) (d : Byte) (s : State) : State :=
  { s with
    resClass := c
    resData := overlay (p.getD []) s.resData
    resLen := (p.getD []).length
    resAddr := some (hi4 (f.getD 0 0))
    resSocket := some (socketOf f)
    resCode := .ok
    resDetail := d }

/-- PARSE's result for a classified frame (R113). -/
def parseResult (f : List Byte) (s : State) : Out :=
  match classify f with
  | .tooShort n => .next (setError .protoFrameTooShort (BitVec.ofNat 8 n) s)
  | .notTerminated => .refused .notTerminated
  | .unknownType t => .next (setError .protoUnknownReplyType (t.setWidth 8) s)
  | .ack => .next (parsed f .ack none 0 s)
  | .completion p => .next (parsed f .completion (some p) 0 s)
  | .error c => .next (parsed f .error none c s)

/-- PARSE (R113): classify one reply frame. -/
def execParse (flen : BitVec 5) (fdata : List Byte) (s : State) : Out :=
  issue s (if Config.maxFrame < flen.toNat then .refused .frameTooLongForPort
    else parseResult (fdata.take flen.toNat) s)

/-- A category code presented as an operand (R74): an admitted code passes and changes nothing; another is refused
(R110). -/
def checkCategory (cat : Byte) (s : State) : Out :=
  if admitted cat s then .next s else .refused .categoryNotAdmitted

/-- CAT_CAMERA1 (R74). -/
def execCatCamera1 (s : State) : Out := checkCategory 0x04 s

/-- CAT_PANTILTER (R74). -/
def execCatPanTilter (s : State) : Out := checkCategory 0x06 s

end Sys2Proof.Machine
end

