-- ==== Sys2Proof/Machine/Handshake.lean ====
section
/-! DEFINITION. PS (spec 42_handshake.md): the host operation TRANSACT, the request rows (its transmit phase, R172), the
reply rows (its reply dispatch, R173 to R176) and the error-code rows (R81, R174, R176). -/

namespace Sys2Proof.Machine

/-! ## Issue and transmit -/

/-- The latch of a frame in the transmit register (R171, R62). -/
def latch (f : List Byte) (s : State) : State :=
  { s with txFrame := overlay f s.txFrame, txLen := some f.length }

/-- TRANSACT (R170): the build phase latches the frame, and the sequencer enters TX (R171). The transmit phase and the
replies are the steps that follow (R172 to R176). -/
def execTransact (q : HostReq) (s : State) : Out :=
  issue s (buildPhase q s fun f =>
    let t := latch f s
    .next { t with seq := .tx })

/-- A request frame (R71): in TX the block writes it to the channel (R172). No rule reads a request frame outside TX
(R26), so it has no effect there (log entry 10). -/
def transmit (f : List Byte) (s : State) : Out :=
  match s.seq with
  | .tx => chanWrite f s
  | .idle => .next s
  | .rx1 => .next s
  | .rx2 => .next s
  | .rxf => .next s
  | .fault => .next s

/-- REQ_COMMAND (R71, R172). -/
def execReqCommand (r : Request) (s : State) : Out := transmit (enc r.addr .command r.cat r.payload) s

/-- REQ_INQUIRY (R71, R172). -/
def execReqInquiry (r : Request) (s : State) : Out := transmit (enc r.addr .inquiry r.cat r.payload) s

/-! ## Replies -/

/-- An Ack in an exchange (R174, R176): the first moves to RX2, a second is an unexpected reply. -/
def psAck (s : State) : State :=
  match s.seq with
  | .rx1 => { s with seq := .rx2 }
  | _ => endError .protoUnexpectedReply 0x4 s

/-- A frame in the NextFrame of `seq` (R140, R173, R175): NEXT_FRAME returns it as it is (R151); TRANSACT does with it
what the reply's class says. Outside a receive state no reply is noticed (R221; log entry 10). -/
def onReply (f : List Byte) (inExchange : State → State) (s : State) : Out :=
  match s.seq with
  | .rx1 => .next (inExchange s)
  | .rx2 => .next (inExchange s)
  | .rxf => .next (endOk f s)
  | .idle => .next s
  | .tx => .next s
  | .fault => .next s

/-- RPL_ACK (R116, R174, R176). -/
def execRplAck (r : Reply) (s : State) : Out := onReply (replyFrame 0x4 r) psAck s

/-- RPL_COMPLETION (R117, R174, R176): the payload is the result. -/
def execRplCompletion (r : Reply) (s : State) : Out := onReply (replyFrame 0x5 r) (endOk r.body) s

/-- The end of an exchange by a device error of a kind (R174, R176, R213). -/
def psDeviceError (k : ErrorKind) (s : State) : State := endError .deviceError (errorCodeOf k) s

/-- RPL_ERROR (R118, R174, R176): the exchange ends with the mapped ErrorKind. -/
def execRplError (r : Reply) (s : State) : Out :=
  onReply (replyFrame 0x6 r) (psDeviceError (errorKindOf r.code)) s

/-- A reply of a reserved type (R84, R115, R173, R175). -/
def unknownReply (t : Nibble) (r : Reply) (s : State) : Out :=
  onReply (replyFrame t r) (endError .protoUnknownReplyType (t.setWidth 8)) s

/-- RPL_RESERVED_TYPE_0 (R115). -/
def execRplReservedType0 (r : Reply) (s : State) : Out := unknownReply 0x0 r s

/-- RPL_RESERVED_TYPE_1 (R115). -/
def execRplReservedType1 (r : Reply) (s : State) : Out := unknownReply 0x1 r s

/-- RPL_RESERVED_TYPE_2 (R115). -/
def execRplReservedType2 (r : Reply) (s : State) : Out := unknownReply 0x2 r s

/-- RPL_RESERVED_TYPE_3 (R115). -/
def execRplReservedType3 (r : Reply) (s : State) : Out := unknownReply 0x3 r s

/-- RPL_RESERVED_TYPE_7 (R115). -/
def execRplReservedType7 (r : Reply) (s : State) : Out := unknownReply 0x7 r s

/-- RPL_RESERVED_TYPE_8 (R115). -/
def execRplReservedType8 (r : Reply) (s : State) : Out := unknownReply 0x8 r s

/-- RPL_RESERVED_TYPE_9 (R115). -/
def execRplReservedType9 (r : Reply) (s : State) : Out := unknownReply 0x9 r s

/-- RPL_RESERVED_TYPE_A (R115). -/
def execRplReservedTypeA (r : Reply) (s : State) : Out := unknownReply 0xA r s

/-- RPL_RESERVED_TYPE_B (R115). -/
def execRplReservedTypeB (r : Reply) (s : State) : Out := unknownReply 0xB r s

/-- RPL_RESERVED_TYPE_C (R115). -/
def execRplReservedTypeC (r : Reply) (s : State) : Out := unknownReply 0xC r s

/-- RPL_RESERVED_TYPE_D (R115). -/
def execRplReservedTypeD (r : Reply) (s : State) : Out := unknownReply 0xD r s

/-- RPL_RESERVED_TYPE_E (R115). -/
def execRplReservedTypeE (r : Reply) (s : State) : Out := unknownReply 0xE r s

/-- RPL_RESERVED_TYPE_F (R115). -/
def execRplReservedTypeF (r : Reply) (s : State) : Out := unknownReply 0xF r s

/-! ## Error codes -/

/-- The code of an Error reply (R81): the exchange that receives it ends with its kind (R174, R176). NEXT_FRAME does
not classify (R151), and outside a receive state no reply is noticed (R221; log entry 11). -/
def errorCode (k : ErrorKind) (s : State) : Out :=
  match s.seq with
  | .rx1 => .next (psDeviceError k s)
  | .rx2 => .next (psDeviceError k s)
  | .rxf => .next s
  | .idle => .next s
  | .tx => .next s
  | .fault => .next s

/-- ERR_MsgLength (R81). -/
def execErrMsgLength (s : State) : Out := errorCode .msgLength s

/-- ERR_Syntax (R81). -/
def execErrSyntax (s : State) : Out := errorCode .syntaxError s

/-- ERR_FullBuffer (R81). -/
def execErrFullBuffer (s : State) : Out := errorCode .fullBuffer s

/-- ERR_Canceled (R81). -/
def execErrCanceled (s : State) : Out := errorCode .canceled s

/-- ERR_NoSocket (R81). -/
def execErrNoSocket (s : State) : Out := errorCode .noSocket s

/-- ERR_NotExecutable (R81). -/
def execErrNotExecutable (s : State) : Out := errorCode .notExecutable s

/-- ERR_Other (R82): the raw code is carried. -/
def execErrOther (c : Byte) (s : State) : Out := errorCode (.other c) s

end Sys2Proof.Machine
end

