-- ==== Sys2Proof/Machine/CommandLayer.lean ====
section
/-! DEFINITION. The Command Layer (spec 30_encoding.md R91 to R102): each of its operations is one TRANSACT, and a check
of the result that the consumer makes and the block does not. -/

namespace Sys2Proof.Machine

/-! ## The operations (R92 to R100) -/

/-- The expansion of a Command Layer operation (R91): the TRANSACT of its kind, category and payload. -/
def expand (k : Kind) (r : Request) (s : State) : Out := execTransact (hostReqOf k r) s

/-- Power.get (R92). -/
def execPowerGet (a : BitVec 3) (s : State) : Out := expand .inquiry ⟨a, 0x04, [0x00]⟩ s

/-- Power.set (R93): `value` is the code byte `vv`. -/
def execPowerSet (a : BitVec 3) (value : Byte) (s : State) : Out := expand .command ⟨a, 0x04, [0x00, value]⟩ s

/-- Zoom.get (R94). -/
def execZoomGet (a : BitVec 3) (s : State) : Out := expand .inquiry ⟨a, 0x04, [0x47]⟩ s

/-- Zoom.set (R95). -/
def execZoomSet (a : BitVec 3) (value : BitVec 16) (s : State) : Out := expand .command ⟨a, 0x04, 0x47 :: nib value⟩ s

/-- PanTilt.get (R96). -/
def execPanTiltGet (a : BitVec 3) (s : State) : Out := expand .inquiry ⟨a, 0x06, [0x12]⟩ s

/-- PanTilt.set_absolute (R97). -/
def execPanTiltSetAbsolute (a : BitVec 3) (pan tilt : BitVec 16) (s : State) : Out :=
  expand .command ⟨a, 0x06, [0x02, 0x01, 0x00] ++ nib pan ++ nib tilt⟩ s

/-- PanTilt.set_relative (R98). -/
def execPanTiltSetRelative (a : BitVec 3) (pan tilt : BitVec 16) (s : State) : Out :=
  expand .command ⟨a, 0x06, [0x03, 0x01, 0x00] ++ nib pan ++ nib tilt⟩ s

/-- The PanTilt jogs and stop (R99): the five bytes of the direction. -/
def execPanTiltJogOrStop (a : BitVec 3) (d0 d1 d2 d3 d4 : Byte) (s : State) : Out :=
  expand .command ⟨a, 0x06, [d0, d1, d2, d3, d4]⟩ s

/-- Presets.set, .reset and .recall (R100): `opCode` is the byte `oo`; the slot is masked to 4 bits, never
rejected. -/
def execPresetsSetResetRecall (a : BitVec 3) (opCode slot : Byte) (s : State) : Out :=
  expand .command ⟨a, 0x04, [0x3F, opCode, slot &&& 0x0F]⟩ s

/-! ## The consumer's parameters (R93, R99, R100) -/

/-- Power.set of a value, with its OPEN code (R93). -/
def powerSetOf (a : BitVec 3) (v : Config.Power) : Instr := .powerSet a (Config.powerSetCode v)

/-- A jog or stop, with its OPEN payload (R99). -/
def jogOrStopOf (a : BitVec 3) (d : Config.Direction) : Instr :=
  .panTiltJogOrStop a (Config.jogPayload d 0) (Config.jogPayload d 1) (Config.jogPayload d 2) (Config.jogPayload d 3)
    (Config.jogPayload d 4)

/-- A Presets operation, with its OPEN code (R100). -/
def presetsOf (a : BitVec 3) (p : Config.PresetAction) (slot : Byte) : Instr :=
  .presetsSetResetRecall a (Config.presetOp p) slot

/-! ## The consumer's checks on a completion payload (R91 to R102) -/

/-- What the consumer makes of a payload: a decoded value, an invalid value (R92), or a protocol violation (R102). -/
inductive Checked (α : Type) where
  | value (a : α)
  | invalidValue
  | protocolViolation
  deriving DecidableEq, Repr

/-- Power.get's decode (R92): 02 On, 03 Off, any other byte an invalid value; another length is a violation (R102). -/
def checkPower : List Byte → Checked Config.Power
  | [b] => if b = 0x02 then .value .on else if b = 0x03 then .value .off else .invalidValue
  | _ => .protocolViolation

/-- Zoom.get's decode (R94): four nibbles, most significant first, an unsigned 16-bit value. -/
def checkZoom : List Byte → Checked (BitVec 16)
  | [b0, b1, b2, b3] => .value (unNib b0 b1 b2 b3)
  | _ => .protocolViolation

/-- PanTilt.get's decode (R96): pan from bytes 0 to 3, tilt from bytes 4 to 7, each signed in two's complement (R101;
log entry 21). -/
def checkPanTilt : List Byte → Checked (Int × Int)
  | [p0, p1, p2, p3, t0, t1, t2, t3] => .value ((unNib p0 p1 p2 p3).toInt, (unNib t0 t1 t2 t3).toInt)
  | _ => .protocolViolation

/-- "Expects empty completion" (R102). -/
def checkEmpty : List Byte → Checked Unit
  | [] => .value ()
  | _ :: _ => .protocolViolation

end Sys2Proof.Machine
end

