-- ==== Sys2Proof/Machine/Control.lean ====
section
/-! DEFINITION. RESET (spec 43_control.md R200) and the reserved selectors (30_encoding.md R88). -/

namespace Sys2Proof.Machine

/-- RESET (R200): accepted in IDLE and FAULT (R202, R203). -/
def execReset (s : State) : Out :=
  match s.seq with
  | .idle => .next (resetBlock s)
  | .fault => .next (resetBlock s)
  | .tx => .refused .operationInProgress
  | .rx1 => .refused .operationInProgress
  | .rx2 => .refused .operationInProgress
  | .rxf => .refused .operationInProgress

/-- RESERVED_OP_0 (R88). -/
def execReservedOp0 (s : State) : Out := issue s (.next (illegalOp 0 s))

/-- RESERVED_OP_6 (R88). -/
def execReservedOp6 (s : State) : Out := issue s (.next (illegalOp 6 s))

/-- RESERVED_OP_7 (R88). -/
def execReservedOp7 (s : State) : Out := issue s (.next (illegalOp 7 s))

end Sys2Proof.Machine
end

