-- ==== Sys2Proof/Machine/Stream.lean ====
section
/-! DEFINITION. SR (spec 41_stream_reassembly.md): the host operation NEXT_FRAME and one turn of the NextFrame loop. -/

namespace Sys2Proof.Machine

/-- NEXT_FRAME (R140): the sequencer enters RXF, where each step is one turn of the NextFrame loop. -/
def execNextFrame (s : State) : Out := issue s (.next { s with seq := .rxf })

/-- What one turn of the NextFrame loop comes to (R141): a frame and the state it was taken from, or an outcome that
delivers no frame. -/
inductive Turn where
  | frame (f : List Byte) (s : State)
  | outcome (o : Out)

/-- One turn of the NextFrame loop (R141): a held frame is extracted (R142); else a full buffer fails (R147, R148);
else one read is made (R143). -/
def nextFrameTurn (s : State) : Turn :=
  match held s with
  | none => .outcome (.fault .rxNoValue)
  | some bs =>
    match firstTerm bs with
    | some p => .frame (bs.take (p + 1)) (shift (p + 1) s)
    | none =>
      if s.rxCnt = Config.bufCap then .outcome (.next (receiveFail .resourceBufferFull 0 s))
      else .outcome (chanRead s)

end Sys2Proof.Machine
end

