-- ==== Sys2Proof/Machine/Dispatch.lean ====
section
/-! DEFINITION. One arm per instruction, each one call of its meaning. -/

namespace Sys2Proof.Machine

def exec (i : Instr) (s : State) : Host.Outcome State Fault Refusal :=
  match i with
  | .build q => Sys2Proof.Machine.execBuild q s
  | .parse flen fdata => Sys2Proof.Machine.execParse flen fdata s
  | .nextFrame => Sys2Proof.Machine.execNextFrame s
  | .transact q => Sys2Proof.Machine.execTransact q s
  | .reset => Sys2Proof.Machine.execReset s
  | .reservedOp0 => Sys2Proof.Machine.execReservedOp0 s
  | .reservedOp6 => Sys2Proof.Machine.execReservedOp6 s
  | .reservedOp7 => Sys2Proof.Machine.execReservedOp7 s
  | .reqCommand r => Sys2Proof.Machine.execReqCommand r s
  | .reqInquiry r => Sys2Proof.Machine.execReqInquiry r s
  | .rplAck r => Sys2Proof.Machine.execRplAck r s
  | .rplCompletion r => Sys2Proof.Machine.execRplCompletion r s
  | .rplError r => Sys2Proof.Machine.execRplError r s
  | .rplReservedType0 r => Sys2Proof.Machine.execRplReservedType0 r s
  | .rplReservedType1 r => Sys2Proof.Machine.execRplReservedType1 r s
  | .rplReservedType2 r => Sys2Proof.Machine.execRplReservedType2 r s
  | .rplReservedType3 r => Sys2Proof.Machine.execRplReservedType3 r s
  | .rplReservedType7 r => Sys2Proof.Machine.execRplReservedType7 r s
  | .rplReservedType8 r => Sys2Proof.Machine.execRplReservedType8 r s
  | .rplReservedType9 r => Sys2Proof.Machine.execRplReservedType9 r s
  | .rplReservedTypeA r => Sys2Proof.Machine.execRplReservedTypeA r s
  | .rplReservedTypeB r => Sys2Proof.Machine.execRplReservedTypeB r s
  | .rplReservedTypeC r => Sys2Proof.Machine.execRplReservedTypeC r s
  | .rplReservedTypeD r => Sys2Proof.Machine.execRplReservedTypeD r s
  | .rplReservedTypeE r => Sys2Proof.Machine.execRplReservedTypeE r s
  | .rplReservedTypeF r => Sys2Proof.Machine.execRplReservedTypeF r s
  | .errMsgLength => Sys2Proof.Machine.execErrMsgLength s
  | .errSyntax => Sys2Proof.Machine.execErrSyntax s
  | .errFullBuffer => Sys2Proof.Machine.execErrFullBuffer s
  | .errCanceled => Sys2Proof.Machine.execErrCanceled s
  | .errNoSocket => Sys2Proof.Machine.execErrNoSocket s
  | .errNotExecutable => Sys2Proof.Machine.execErrNotExecutable s
  | .errOther code => Sys2Proof.Machine.execErrOther code s
  | .catCamera1 => Sys2Proof.Machine.execCatCamera1 s
  | .catPanTilter => Sys2Proof.Machine.execCatPanTilter s
  | .powerGet addr => Sys2Proof.Machine.execPowerGet addr s
  | .powerSet addr value => Sys2Proof.Machine.execPowerSet addr value s
  | .zoomGet addr => Sys2Proof.Machine.execZoomGet addr s
  | .zoomSet addr value => Sys2Proof.Machine.execZoomSet addr value s
  | .panTiltGet addr => Sys2Proof.Machine.execPanTiltGet addr s
  | .panTiltSetAbsolute addr pan tilt => Sys2Proof.Machine.execPanTiltSetAbsolute addr pan tilt s
  | .panTiltSetRelative addr pan tilt => Sys2Proof.Machine.execPanTiltSetRelative addr pan tilt s
  | .panTiltJogOrStop addr d0 d1 d2 d3 d4 => Sys2Proof.Machine.execPanTiltJogOrStop addr d0 d1 d2 d3 d4 s
  | .presetsSetResetRecall addr opCode slot => Sys2Proof.Machine.execPresetsSetResetRecall addr opCode slot s

end Sys2Proof.Machine
end

