-- ==== Sys2Proof/Machine/Fetch.lean ====
section
/-! DEFINITION. What the machine does next (spec R25): `seq` plays the part of a program counter. At rest the next
instruction is the host's next operation (R202); in TX it is the latched request frame (R172); in RX1 and RX2 it is the
reply frame that SR extracts (R173, R175). -/

namespace Sys2Proof.Machine

/-- An instruction to run and the state it runs in, past its bytes; or a step that runs no row of the table. -/
inductive Fetched where
  | run (i : Instr) (s : State)
  | outcome (o : Out)

/-- The instruction of a host word (R86, R91). -/
def decodeHostWord : HostWord → Decoded
  | .op bs => decode .hostOp bs
  | .command f => decode .pseudo f

/-- The decoder's answer as a fetch: its instruction runs, and bytes that encode none are refused by name. -/
def fetchDecoded (d : Decoded) (s : State) : Fetched :=
  match d with
  | .ok i => .run i s
  | .reject e => .outcome (.refused (.undecodable e))

/-- At rest (R202): the host's next operation, or, while the host issues none, nothing (R240). -/
def fetchHost (s : State) : Fetched :=
  match s.host with
  | [] => .outcome (.next s)
  | w :: rest => fetchDecoded (decodeHostWord w) { s with host := rest }

/-- The latched request frame `tx_frame[0 .. tx_len]` (R26, R172), when it holds values. -/
def txBytes (s : State) : Option (List Byte) :=
  match s.txLen with
  | none => none
  | some n => readCells n s.txFrame

/-- In TX (R172): the latched request frame. -/
def fetchTx (s : State) : Fetched :=
  match txBytes s with
  | none => .outcome (.fault .txNoValue)
  | some f => fetchDecoded (decode .request f) s

/-- A frame that SR delivers (R140, R173, R175): NEXT_FRAME returns it whole, whatever it holds (R151); TRANSACT first
checks its length (R114, R177) and then runs its row. -/
def fetchFrame (f : List Byte) (s : State) : Fetched :=
  match s.seq with
  | .rxf => .outcome (.next (endOk f s))
  | _ =>
    if f.length < Config.minReply then
      .outcome (.next (endError .protoFrameTooShort (BitVec.ofNat 8 f.length) s))
    else fetchDecoded (decode .reply f) s

/-- In RX1, RX2 and RXF: one turn of the NextFrame loop (R141). -/
def fetchReceive (s : State) : Fetched :=
  match nextFrameTurn s with
  | .frame f t => fetchFrame f t
  | .outcome o => .outcome o

/-- The fetch. The power-on reset input comes before everything else (R240). -/
def fetch (s : State) : Fetched :=
  if s.powerOn then .outcome (.next (powerOnReset s))
  else
    match s.seq with
    | .idle => fetchHost s
    | .fault => fetchHost s
    | .tx => fetchTx s
    | .rx1 => fetchReceive s
    | .rx2 => fetchReceive s
    | .rxf => fetchReceive s

/-! ## Placing a table word -/

/-- The state whose next step fetches these bytes in this format (log entry 17): a host word goes to the head of the
host's program, at rest; a request frame into the transmit register, in TX, with a channel that writes it whole; a
reply frame into the receive buffer, in RX1. -/
def placeBytes (fmt : Format) (bs : List Byte) (s : State) : State :=
  let rest : Seq := match s.seq with
    | .fault => .fault
    | _ => .idle
  match fmt with
  | .hostOp => { s with seq := rest, host := .op bs :: s.host, powerOn := false }
  | .pseudo => { s with seq := rest, host := .command bs :: s.host, powerOn := false }
  | .request =>
    { s with
      seq := .tx, txFrame := overlay bs s.txFrame, txLen := some bs.length, script := .wrote bs.length :: s.script,
      powerOn := false }
  | .reply => { s with seq := .rx1, rxBuf := cellsOf bs, rxCnt := bs.length, powerOn := false }
  | .errorCode => s
  | .category => s

end Sys2Proof.Machine
end

