-- ==== Sys2Proof/Machine/Step.lean ====
section
/-! DEFINITION. One step of the machine: the block moves once, with at most one answer of the channel (spec R57). -/

namespace Sys2Proof.Machine

/-- One step: the fetched instruction runs, or the step is one that runs no row of the table. -/
def step (s : State) : Out :=
  match fetch s with
  | .run i t => exec i t
  | .outcome o => o

/-- The state whose next step runs the instruction of a table word (log entry 17). -/
def State.withFetchWord (s : State) (nbits w : Nat) : State :=
  match tableWord nbits w with
  | some (fmt, bs) => placeBytes fmt bs s
  | none => s

end Sys2Proof.Machine
end

