-- ==== Sys2Proof/Safety.lean ====
section
/-! DEFINITION. The terms claims are stated in: rest and clean entry (spec R23, R253), programs and the ends of
their runs (R252), the invariant, the agents' moves (R20), the channel as an oracle and its fairness (R251), and the byte
stream that SR reassembles (R150). -/

namespace Sys2Proof.Machine

/-! ## Outcomes and runs -/

/-- The next state of an outcome, if it has one. -/
def nextState? : Out → Option State
  | .next s => some s
  | .fault _ => none
  | .refused _ => none

/-- The refusal of an outcome, if it is one. -/
def refusal? : Out → Option Refusal
  | .next _ => none
  | .fault _ => none
  | .refused r => some r

/-- `k` steps, stopping at the first fault or refusal. -/
def runSteps : Nat → State → Out
  | 0, s => .next s
  | k + 1, s =>
    match step s with
    | .next t => runSteps k t
    | .fault r => .fault r
    | .refused r => .refused r

/-! ## States -/

/-- The sequencer is collecting a frame: RX1, RX2 or RXF (R226). -/
def Seq.receiving : Seq → Bool
  | .idle => false
  | .tx => false
  | .rx1 => true
  | .rx2 => true
  | .rxf => true
  | .fault => false

/-- No operation is in progress (R23, R202). -/
def atRest (s : State) : Prop := s.seq = .idle ∨ s.seq = .fault

/-- The launch premise of R253. -/
def cleanEntry (s : State) : Prop :=
  s.seq = .idle ∧ s.rxCnt = 0 ∧ s.suspect = false ∧ s.faultCause = .none

/-- A frame (R70): 1 to 16 bytes of which the last, and no other, is the terminator. -/
def isFrame (f : List Byte) : Prop :=
  f.length ≤ Config.maxFrame ∧ ∃ g, f = g ++ [Config.term] ∧ Config.term ∉ g

/-- The receive buffer holds these bytes: its first cells hold them, in order, the others hold no value, and the
count is theirs (R21, R22). -/
def holds (s : State) (bs : List Byte) : Prop :=
  bs.length ≤ Config.bufCap ∧ s.rxBuf = cellsOf bs ∧ s.rxCnt = bs.length

/-- The details that the table of R211 lets a result code have. With OK it is 0, but for PARSE of an Error reply, whose
rule R113 gives it the error code; `res_class` is then Error (log entry 19). -/
def detailInTable (cls : ResClass) (d : Byte) : ResCode → Prop
  | .ok => d = 0 ∨ cls = .error
  | .deviceError => True
  | .protoFrameTooShort => d.toNat ≤ 2
  | .protoUnknownReplyType => d.toNat < 16 ∧ d ≠ 0x4 ∧ d ≠ 0x5 ∧ d ≠ 0x6
  | .protoUnexpectedReply => d = 0x4
  | .resourceBufferFull => d = 0
  | .transport => True
  | .precondPayloadTooLong => 12 < d.toNat
  | .precondAddressOutOfRange => 7 < d.toNat
  | .faulted => d = 1 ∨ d = 2
  | .illegalOp => d = 0 ∨ d = 6 ∨ d = 7
  | .none => d = 0

/-- What holds of the machine between any two steps. -/
structure Inv (s : State) : Prop where
  /-- R21, R22, and R23 for every state in which SR is not at work. -/
  rx : ∃ bs, holds s bs ∧ (s.seq.receiving = false → bs.length = Config.bufCap → Config.term ∉ bs)
  /-- R29: `fault_cause ≠ 0` holds exactly when `seq = FAULT`. -/
  cause : s.faultCause ≠ .none ↔ s.seq = .fault
  /-- R26: `tx_frame` has 16 cells. -/
  txCells : s.txFrame.length = Config.maxFrame
  /-- R26: `tx_len` is in 4..16 once it has a value. -/
  txLen : ∀ n, s.txLen = some n → 4 ≤ n ∧ n ≤ Config.maxFrame
  /-- R171: in TX the transmit register holds a request frame. -/
  txRequest : s.seq = .tx → ∃ k r, Request.wf r = true ∧ txBytes s = some (enc r.addr k r.cat r.payload)
  /-- R27: `res_data` has 16 cells. -/
  resCells : s.resData.length = Config.maxFrame
  /-- R27: `res_len` is in 0..16. -/
  resLen : s.resLen ≤ Config.maxFrame
  /-- R27: the first `res_len` result cells hold values. -/
  resBytes : ∃ bs, s.resultBytes = some bs
  /-- R211: the result code has a detail that the table lets it have. -/
  detail : detailInTable s.resClass s.resDetail s.resCode

/-! ## The agents' moves -/

/-- A move of one agent (R20): the block steps; the host adds an operation to its program; the channel adds an
answer to its script; power-on reset is asserted (R240). -/
inductive Move : State → State → Prop where
  | block (s t : State) : step s = .next t → Move s t
  | host (s : State) (w : HostWord) : Move s { s with host := s.host ++ [w] }
  | channel (s : State) (a : ChanAnswer) : Move s { s with script := s.script ++ [a] }
  | powerOn (s : State) : Move s { s with powerOn := true }

/-- The states that moves of the agents reach from reset, whatever the machine extends `CATEGORY_CODES` by (R7). -/
inductive Reachable : State → Prop where
  | reset (cats : List Byte) : Reachable { State.reset with extraCategories := cats }
  | move (s t : State) : Reachable s → Move s t → Reachable t

/-! ## Programs and the ends of their runs (R252) -/

/-- The channel transaction the block makes next, if its next step makes one (R143, R172). -/
def asks (s : State) : Option ChanTxn :=
  match s.seq with
  | .idle => none
  | .fault => none
  | .tx => (txBytes s).map .write
  | _ =>
    match held s with
    | none => none
    | some bs => if Config.term ∈ bs ∨ s.rxCnt = Config.bufCap then none else some (.read (Config.bufCap - s.rxCnt))

/-- The run has ended: the last operation has (R252). -/
abbrev ended (s : State) : Prop := s.host = [] ∧ (s.seq = .idle ∨ s.seq = .fault)

/-- The run is stuck: the script has run out while the block waits in `ChanRead` (R226, R252). -/
abbrev stuck (s : State) : Prop := s.seq.receiving = true ∧ s.script = [] ∧ (asks s).isSome = true

/-- A program (R252): the host's operations and a channel script. -/
structure Program where
  ops    : List HostWord
  script : List ChanAnswer
  deriving DecidableEq, Repr

/-- A run of the program starts from a launch state (R252). -/
def Program.launch (p : Program) (s : State) : State := { s with host := p.ops, script := p.script, issued := [] }

/-- What is observed at the end of a run (R252): the status view, and the frames written in order. -/
structure Observation where
  status : StatusView
  frames : List (List Byte)
  deriving DecidableEq, Repr

/-- The observation of a state. -/
def State.observe (s : State) : Observation := ⟨s.statusView, s.framesWritten⟩

/-- What a run comes to (R252). A stuck run, a refused run and one that is still going have no end and no
observation. -/
inductive RunResult where
  | ended (o : Observation)
  | stuck
  | refused (r : Refusal)
  | fault (r : Fault)
  | going
  deriving DecidableEq, Repr

/-- A run of at most this many steps (R252): it goes on until it has ended or is stuck. -/
def runProgram : Nat → State → RunResult
  | 0, s => if ended s then .ended s.observe else if stuck s then .stuck else .going
  | k + 1, s =>
    if ended s then .ended s.observe
    else if stuck s then .stuck
    else
      match step s with
      | .next t => runProgram k t
      | .fault r => .fault r
      | .refused r => .refused r

/-! ## The channel as an oracle, and its fairness (R20, R251) -/

/-- A channel (R20): its answer to a write of a frame and to a read of at most so many bytes, when the block makes the
transaction as its `n`-th step; `none` is a read that it has not answered yet. A `Channel` is no state: it stands beside
the machine and gives its script answer by answer, without end. -/
structure Channel where
  onWrite : Nat → List Byte → ChanAnswer
  onRead  : Nat → Nat → Option ChanAnswer

/-- The shapes of R224: an answer that a transaction may have. -/
def answerShape : ChanTxn → ChanAnswer → Prop
  | .write f, .wrote n => n ≤ f.length
  | .write _, .werr _ => True
  | .read max, .bytes bs => 1 ≤ bs.length ∧ bs.length ≤ max
  | .read _, .zero => True
  | .read _, .interrupted => True
  | .read _, .rerr _ => True
  | _, _ => False

/-- The channel answers in the shapes of R224. -/
def Channel.legal (c : Channel) : Prop :=
  (∀ n f, answerShape (.write f) (c.onWrite n f)) ∧ ∀ n max a, c.onRead n max = some a → answerShape (.read max) a

/-- Weak fairness (R251, D29): whenever a read is made, and made again, the channel at last answers it with something
other than `Interrupted`. A write it always answers. -/
def Channel.fair (c : Channel) : Prop :=
  ∀ n max, ∃ m a, n ≤ m ∧ c.onRead m max = some a ∧ a ≠ .interrupted

/-- The channel gives its answer to the transaction that the block makes next, if it has one and the script has
none. -/
def Channel.serve (c : Channel) (n : Nat) (s : State) : State :=
  if s.script = [] then
    match asks s with
    | none => s
    | some (.write f) => { s with script := [c.onWrite n f] }
    | some (.read max) => { s with script := (c.onRead n max).toList }
  else s

/-- `k` steps with a channel, from its `n`-th on. The states it comes to, for every `k`, are the run; a run that never
ends is infinite (R251). -/
def Channel.run (c : Channel) : Nat → Nat → State → Out
  | _, 0, s => .next s
  | n, k + 1, s =>
    match step (c.serve n s) with
    | .next t => c.run (n + 1) k t
    | .fault r => .fault r
    | .refused r => .refused r

/-! ## The byte stream -/

/-- The bytes an answer delivers. -/
def answerBytes : ChanAnswer → List Byte
  | .bytes bs => bs
  | .wrote _ => []
  | .werr _ => []
  | .zero => []
  | .interrupted => []
  | .rerr _ => []

/-- The bytes a script delivers, in order. -/
def scriptBytes (l : List ChanAnswer) : List Byte := l.flatMap answerBytes

/-- The answers of a script that deliver bytes. -/
def byteReads (l : List ChanAnswer) : List ChanAnswer :=
  l.filter fun
    | .bytes _ => true
    | _ => false

/-- What follows the last terminator. -/
def afterLastTerm : List Byte → List Byte
  | [] => []
  | b :: bs => if Config.term ∈ bs then afterLastTerm bs else if b = Config.term then bs else b :: bs

/-- Every answer is a legal answer to a read made when every whole frame held has been taken and `h` is held: bytes
that fit the free space (R143), or an interruption (R144). -/
def legalFrom : List Byte → List ChanAnswer → Prop
  | _, [] => True
  | h, .interrupted :: rest => legalFrom h rest
  | h, .bytes bs :: rest =>
    1 ≤ bs.length ∧ bs.length ≤ Config.bufCap - h.length ∧ legalFrom (afterLastTerm (h ++ bs)) rest
  | _, .wrote _ :: _ => False
  | _, .werr _ :: _ => False
  | _, .zero :: _ => False
  | _, .rerr _ :: _ => False

/-- One call of NEXT_FRAME, run to its end: the frame it returns and the state it leaves. -/
def callNextFrame (s : State) : Option (List Byte × State) :=
  match runSteps (s.script.length + 2) { s with host := [.op [3]] } with
  | .next t =>
    if t.seq = .idle ∧ t.resCode = .ok then t.resultBytes.map fun f => (f, t) else none
  | .fault _ => none
  | .refused _ => none

/-- `n` successive calls of NEXT_FRAME: the frames they return and the last state. -/
def callNextFrames : Nat → State → Option (List (List Byte) × State)
  | 0, s => some ([], s)
  | n + 1, s =>
    match callNextFrame s with
    | none => none
    | some (f, t) => (callNextFrames n t).map fun r => (f :: r.1, r.2)

end Sys2Proof.Machine
end

