-- ==== Sys2Proof/Certificates/Slice0/Obligations.lean ====
section
/-! DEFINITION. The statements for the provers, in the order of the spec's files. -/

open Sys2Proof Sys2Proof.Machine

/-! ## Reset, issue and FAULT -/

/-- R35: the value of every register after reset. The host's program, the channel's script, the log of transactions
and the power-on input are the model's own (log entry 22) and are not stated here. -/
def Obligations.ResetStateHoldsTheSpecValues : Prop :=
  State.reset.rxCnt = 0 ∧ (∀ i, i < 16 → State.reset.rxBuf[i]? = some none) ∧ State.reset.rxBuf.length = 16 ∧
  State.reset.seq.code = 0 ∧
  (∀ i, i < 16 → State.reset.txFrame[i]? = some none) ∧ State.reset.txFrame.length = 16 ∧
  State.reset.txLen = none ∧
  State.reset.resCode.code = 0xFE ∧ State.reset.resDetail = 0 ∧ State.reset.resLen = 0 ∧
  (∀ i, i < 16 → State.reset.resData[i]? = some none) ∧ State.reset.resData.length = 16 ∧
  State.reset.resClass.code = 3 ∧ State.reset.resAddr = none ∧ State.reset.resSocket = none ∧
  State.reset.suspect = false ∧ State.reset.faultCause.code = 0

/-- The machine's invariant and the launch premise of R253 hold right after reset. -/
def Obligations.InvariantHoldsAtReset : Prop := Inv State.reset ∧ cleanEntry State.reset

/-- R200: RESET, accepted in IDLE and FAULT, sets every register to its reset value and makes no channel
transaction. -/
def Obligations.ResetOpRestoresTheResetState : Prop :=
  ∀ s : State, atRest s →
    ∃ t, exec .reset s = .next t ∧
      t.rxCnt = 0 ∧ t.rxBuf = List.replicate 16 none ∧ t.seq.code = 0 ∧
      t.txFrame = List.replicate 16 none ∧ t.txLen = none ∧ t.suspect = false ∧ t.faultCause.code = 0 ∧
      t.resCode.code = 0xFE ∧ t.resDetail = 0 ∧ t.resLen = 0 ∧ t.resData = List.replicate 16 none ∧
      t.resAddr = none ∧ t.resSocket = none ∧ t.resClass.code = 3 ∧
      t.host = s.host ∧ t.script = s.script ∧ t.issued = s.issued ∧ t.powerOn = s.powerOn ∧
      t.extraCategories = s.extraCategories

/-- R240: power-on reset may occur in any state, sets every register to its reset value, abandons the operation in
progress and writes no result. The input flag is the model's (log entry 7), and what extends `CATEGORY_CODES` is
configuration and stays (log entry 12). -/
def Obligations.PowerOnResetAbandonsAnyOperation : Prop :=
  ∀ s : State, ∃ t, step { s with powerOn := true } = .next t ∧
    t = { State.reset with
      host := s.host, script := s.script, issued := s.issued, extraCategories := s.extraCategories }

/-- R88: a reserved selector ends at once with ILLEGAL_OP and changes nothing but the two result registers. -/
def Obligations.ReservedSelectorsAnswerIllegalOp : Prop :=
  ∀ s : State, s.seq = .idle →
    (∃ t, exec .reservedOp0 s = .next t ∧ t.resCode.code = 0x51 ∧ t.resDetail = 0 ∧
      t = { s with resCode := t.resCode, resDetail := t.resDetail }) ∧
    (∃ t, exec .reservedOp6 s = .next t ∧ t.resCode.code = 0x51 ∧ t.resDetail = 6 ∧
      t = { s with resCode := t.resCode, resDetail := t.resDetail }) ∧
    (∃ t, exec .reservedOp7 s = .next t ∧ t.resCode.code = 0x51 ∧ t.resDetail = 7 ∧
      t = { s with resCode := t.resCode, resDetail := t.resDetail })

/-- R203: in FAULT every operation but RESET ends with FAULTED and the cause, and changes nothing else. -/
def Obligations.FaultAnswersFaultedToEveryOtherOperation : Prop :=
  ∀ (i : Instr) (s : State), formatOf i = .hostOp ∨ formatOf i = .pseudo → i ≠ .reset → s.seq = .fault →
    ∃ t, exec i s = .next t ∧ t.resCode.code = 0x50 ∧ t.resDetail = s.faultCause.code.setWidth 8 ∧
      t = { s with resCode := t.resCode, resDetail := t.resDetail }

/-- While an operation is in progress the host issues none: its program does not move, and the model refuses an
operation presented by hand (the model's choice, log entry 16). -/
def Obligations.HostHasNoMoveWhileBusy : Prop :=
  ∀ s : State, s.seq = .tx ∨ s.seq = .rx1 ∨ s.seq = .rx2 ∨ s.seq = .rxf →
    (∀ t, s.powerOn = false → step s = .next t → t.host = s.host) ∧
    (∀ i, formatOf i = .hostOp ∨ formatOf i = .pseudo → exec i s = .refused .operationInProgress)

/-! ## FC -/

/-- R110, R111: BUILD writes the request frame into the result registers, and nothing else changes. -/
def Obligations.BuildWritesTheRequestFrame : Prop :=
  ∀ (q : HostReq) (s : State), s.seq = .idle → q.cat ∈ s.categoryCodes → q.plen.toNat ≤ 12 →
    q.addr.toNat ≤ 7 → q.pdata.length = 12 →
    ∃ t, exec (.build q) s = .next t ∧
      t.resultBytes = some ([0x80 ||| q.addr, if q.kind = .command then 0x01 else 0x09, q.cat] ++
        q.pdata.take q.plen.toNat ++ [0xFF]) ∧
      t.resLen = 4 + q.plen.toNat ∧ t.resCode.code = 0x00 ∧ t.resDetail = 0 ∧
      t = { s with resData := t.resData, resLen := t.resLen, resCode := t.resCode, resDetail := t.resDetail }

/-- R216: the FAULT entry of BUILD and TRANSACT, the payload length before the address; and a step in FAULT stays there
with the same cause, unless the host's operation is RESET. -/
def Obligations.FaultEntryHoldsUntilReset : Prop :=
  (∀ (q : HostReq) (s : State), s.seq = .idle → q.cat ∈ s.categoryCodes →
    (12 < q.plen.toNat → ∃ t, exec (.build q) s = .next t ∧ exec (.transact q) s = .next t ∧
      t.faultCause.code = 1 ∧ t.resCode.code = 0x40 ∧ t.resDetail = q.plen ∧ t.seq.code = 7 ∧
      t = { s with faultCause := t.faultCause, resCode := t.resCode, resDetail := t.resDetail, seq := t.seq }) ∧
    (q.plen.toNat ≤ 12 → 7 < q.addr.toNat → ∃ t, exec (.build q) s = .next t ∧ exec (.transact q) s = .next t ∧
      t.faultCause.code = 2 ∧ t.resCode.code = 0x41 ∧ t.resDetail = q.addr ∧ t.seq.code = 7 ∧
      t = { s with faultCause := t.faultCause, resCode := t.resCode, resDetail := t.resDetail, seq := t.seq })) ∧
  (∀ s t : State, s.seq = .fault → s.powerOn = false → step s = .next t →
    (t.seq = .fault ∧ t.faultCause = s.faultCause ∧ t.rxBuf = s.rxBuf ∧ t.rxCnt = s.rxCnt ∧ t.suspect = s.suspect ∧
      t.txFrame = s.txFrame ∧ t.txLen = s.txLen ∧ t.resData = s.resData ∧ t.issued = s.issued) ∨
    (∃ w rest, s.host = w :: rest ∧ decodeHostWord w = .ok .reset ∧ t = resetBlock { s with host := rest }))

/-- R217: the three refusals. `CATEGORY_CODES` is the machine's (R7, R74). -/
def Obligations.TheThreeRefusals : Prop :=
  ∀ s : State, s.seq = .idle →
    (∀ q : HostReq, q.cat ∉ s.categoryCodes →
      exec (.build q) s = .refused .categoryNotAdmitted ∧ exec (.transact q) s = .refused .categoryNotAdmitted) ∧
    (∀ (flen : BitVec 5) (fdata : List Byte), 16 < flen.toNat →
      exec (.parse flen fdata) s = .refused .frameTooLongForPort) ∧
    (∀ (flen : BitVec 5) (fdata : List Byte), 3 ≤ flen.toNat → flen.toNat ≤ 16 → fdata.length = 16 →
      fdata[flen.toNat - 1]? ≠ some 0xFF → exec (.parse flen fdata) s = .refused .notTerminated)

/-- PARSE of a terminated frame of 3 to 16 bytes whose type is Ack, Completion or Error (R113, R116 to R118). The third
clause, OK with the error code in `res_detail`, follows R113 where the table of R211 gives OK the detail 0: the model's
reading (DEDUCED, log entry 19). -/
def Obligations.ParseReportsTheReply : Prop :=
  ∀ (flen : BitVec 5) (b0 b1 : Byte) (rest pad : List Byte) (s : State), s.seq = .idle →
    flen.toNat = rest.length + 3 → rest.length + 3 + pad.length = 16 →
    (hi4 b1 = 4 → ∃ t, exec (.parse flen (b0 :: b1 :: rest ++ 0xFF :: pad)) s = .next t ∧
      t.resClass.code = 0 ∧ t.resLen = 0 ∧ t.resAddr = some (hi4 b0) ∧ t.resSocket = some (lo4 b1) ∧
      t.resCode.code = 0 ∧ t.resDetail = 0 ∧
      t = { s with resClass := t.resClass, resLen := t.resLen, resAddr := t.resAddr, resSocket := t.resSocket,
                   resCode := t.resCode, resDetail := t.resDetail }) ∧
    (hi4 b1 = 5 → ∃ t, exec (.parse flen (b0 :: b1 :: rest ++ 0xFF :: pad)) s = .next t ∧
      t.resClass.code = 1 ∧ t.resultBytes = some rest ∧ t.resLen = rest.length ∧ t.resAddr = some (hi4 b0) ∧
      t.resSocket = some (lo4 b1) ∧ t.resCode.code = 0 ∧ t.resDetail = 0 ∧
      t = { s with resClass := t.resClass, resData := t.resData, resLen := t.resLen, resAddr := t.resAddr,
                   resSocket := t.resSocket, resCode := t.resCode, resDetail := t.resDetail }) ∧
    (hi4 b1 = 6 → ∃ t, exec (.parse flen (b0 :: b1 :: rest ++ 0xFF :: pad)) s = .next t ∧
      t.resClass.code = 2 ∧ t.resLen = 0 ∧ t.resAddr = some (hi4 b0) ∧ t.resSocket = some (lo4 b1) ∧
      t.resCode.code = 0 ∧ t.resDetail = (rest ++ [0xFF]).headD 0 ∧
      t = { s with resClass := t.resClass, resLen := t.resLen, resAddr := t.resAddr, resSocket := t.resSocket,
                   resCode := t.resCode, resDetail := t.resDetail })

/-- R113 to R115: PARSE's two error results, which write only the code and the detail. -/
def Obligations.ParseErrorsWriteOnlyCodeAndDetail : Prop :=
  ∀ (flen : BitVec 5) (fdata : List Byte) (s : State), s.seq = .idle → fdata.length = 16 →
    (flen.toNat < 3 → ∃ t, exec (.parse flen fdata) s = .next t ∧
      t.resCode.code = 0x10 ∧ t.resDetail = flen.setWidth 8 ∧
      t = { s with resCode := t.resCode, resDetail := t.resDetail }) ∧
    (∀ b1, 3 ≤ flen.toNat → flen.toNat ≤ 16 → fdata[flen.toNat - 1]? = some 0xFF → fdata[1]? = some b1 →
      hi4 b1 ≠ 4 → hi4 b1 ≠ 5 → hi4 b1 ≠ 6 → ∃ t, exec (.parse flen fdata) s = .next t ∧
        t.resCode.code = 0x11 ∧ t.resDetail = (hi4 b1).setWidth 8 ∧
        t = { s with resCode := t.resCode, resDetail := t.resDetail })

/-- R122: FC operations have no effect on SR or PS state, and their result does not depend on it. -/
def Obligations.CodecOperationsTouchNoOtherUnit : Prop :=
  ∀ (i : Instr) (s t : State), (∃ q, i = .build q) ∨ (∃ n f, i = .parse n f) → s.seq = .idle →
    exec i s = .next t →
    (t.rxBuf = s.rxBuf ∧ t.rxCnt = s.rxCnt ∧ t.txFrame = s.txFrame ∧ t.txLen = s.txLen ∧ t.suspect = s.suspect ∧
      t.script = s.script ∧ t.issued = s.issued) ∧
    ((t.seq = s.seq ∧ t.faultCause = s.faultCause) ∨
      ((∃ q, i = .build q) ∧ t.seq = .fault ∧ t.faultCause ≠ .none)) ∧
    (∀ s', s'.seq = .idle → s'.extraCategories = s.extraCategories → ∃ t', exec i s' = .next t' ∧
      ((∃ q, i = .build q) → t'.resultView .build = t.resultView .build) ∧
      ((∃ n f, i = .parse n f) → t'.resultView .parse = t.resultView .parse))

/-- R123: replies built in the reply layout classify, and give back their address and socket. -/
def Obligations.ReplyRoundTrip : Prop :=
  ∀ (a : BitVec 3) (s x : Nibble) (p : List Byte) (c : Byte), p.length ≤ 13 → (0xFF : Byte) ∉ p → c ≠ 0xFF →
    (∀ f, f = [joinNibbles (8 + a.setWidth 4) x, joinNibbles 0x5 s] ++ p ++ [0xFF] →
      classify f = .completion p ∧ addressOf f = .address a ∧ socketOf f = s) ∧
    (∀ f, f = [joinNibbles (8 + a.setWidth 4) x, joinNibbles 0x4 s] ++ p ++ [0xFF] →
      classify f = .ack ∧ addressOf f = .address a ∧ socketOf f = s) ∧
    (∀ f, f = [joinNibbles (8 + a.setWidth 4) x, joinNibbles 0x6 s, c, 0xFF] →
      classify f = .error c ∧ addressOf f = .address a ∧ socketOf f = s)

/-- R124: a request frame gives back its fields, so `Enc` is injective on its domain. -/
def Obligations.RequestRoundTrip : Prop :=
  (∀ (a : BitVec 3) (k : Kind) (c : Byte) (p : List Byte), p.length ≤ 12 → (0xFF : Byte) ∉ p →
    ∃ b0 b1, (enc a k c p)[0]? = some b0 ∧ (enc a k c p)[1]? = some b1 ∧ b0 &&& 0x07 = a.setWidth 8 ∧
      (k = .command ↔ b1 = 0x01) ∧ (k = .inquiry ↔ b1 = 0x09) ∧ (enc a k c p)[2]? = some c ∧
      ((enc a k c p).drop 3).dropLast = p ∧ (enc a k c p).getLast? = some 0xFF ∧
      (enc a k c p).length = 4 + p.length) ∧
  (∀ a k c p a' k' c' p', enc a k c p = enc a' k' c' p' → a = a' ∧ k = k' ∧ c = c' ∧ p = p')

/-- R125: a request frame read as a reply has unknown type 0, and its address accessor gives 0. -/
def Obligations.RequestsAreNoReplies : Prop :=
  ∀ (a : BitVec 3) (k : Kind) (c : Byte) (p : List Byte),
    classify (enc a k c p) = .unknownType 0 ∧ addressOf (enc a k c p) = .address 0

/-- R119: the address accessor subtracts 8 where the nibble is 8 or more, and fails with the nibble below; PARSE does not
evaluate it, succeeds whatever the nibble is, and stores the raw nibble. -/
def Obligations.AddressAccessorNeverWraps : Prop :=
  (∀ (b0 : Byte) (f : List Byte),
    (8 ≤ (hi4 b0).toNat → ∃ a, addressOf (b0 :: f) = .address a ∧ a.toNat + 8 = (hi4 b0).toNat) ∧
    ((hi4 b0).toNat < 8 → addressOf (b0 :: f) = .addressUnderflow (hi4 b0))) ∧
  (∀ (flen : BitVec 5) (b0 b1 : Byte) (rest pad : List Byte) (s : State), s.seq = .idle →
    flen.toNat = rest.length + 3 → rest.length + 3 + pad.length = 16 → hi4 b1 = 4 ∨ hi4 b1 = 5 ∨ hi4 b1 = 6 →
    ∃ t, exec (.parse flen (b0 :: b1 :: rest ++ 0xFF :: pad)) s = .next t ∧ t.resCode = .ok ∧
      t.resAddr = some (hi4 b0) ∧ t.resAddr.map addressOfNibble = some (addressOf (b0 :: b1 :: rest ++ [0xFF])))

/-- R81, R82: the error-code map is total, `Other` carries exactly the unnamed codes, and kinds are equal exactly when
their codes are. -/
def Obligations.ErrorKindMapIsTotalAndInjective : Prop :=
  errorKindOf 0x01 = .msgLength ∧ errorKindOf 0x02 = .syntaxError ∧ errorKindOf 0x03 = .fullBuffer ∧
  errorKindOf 0x04 = .canceled ∧ errorKindOf 0x05 = .noSocket ∧ errorKindOf 0x41 = .notExecutable ∧
  (∀ c d : Byte, errorKindOf c = .other d ↔
    c = d ∧ c ∉ ([0x01, 0x02, 0x03, 0x04, 0x05, 0x41] : List Byte)) ∧
  (∀ c d : Byte, errorKindOf c = errorKindOf d → c = d)

/-- R101: nibble encoding is most significant first, in the low nibbles; decoding reads the low nibbles of any four bytes,
and gives an encoded value back. -/
def Obligations.NibbleRoundTrip : Prop :=
  (∀ v : BitVec 16, ∃ b0 b1 b2 b3, nib v = [b0, b1, b2, b3] ∧
    b0.toNat = v.toNat / 4096 ∧ b1.toNat = v.toNat / 256 % 16 ∧ b2.toNat = v.toNat / 16 % 16 ∧
    b3.toNat = v.toNat % 16 ∧ unNib b0 b1 b2 b3 = v) ∧
  (∀ b0 b1 b2 b3 : Byte, (unNib b0 b1 b2 b3).toNat =
    (lo4 b0).toNat * 4096 + (lo4 b1).toNat * 256 + (lo4 b2).toNat * 16 + (lo4 b3).toNat)

/-! ## Encoding -/

/-- Decoding the encoding of a well-formed instruction gives it back, for every row of the table. -/
def Obligations.DecodeOfEncode : Prop :=
  ∀ i : Instr, i.wf = true → decode (formatOf i) (encode i) = .ok i

/-- What the decoder accepts is well-formed, and the bytes are its encoding: all of them, in the Command Layer format
too. On the host port they are the encoding and then bytes the operation does not read: that such bytes may stand there is
the model's choice (DESIGN CHOICE, log entry 3). -/
def Obligations.DecodeAcceptsOnlyEncodings : Prop :=
  ∀ (fmt : Format) (bs : List Byte) (i : Instr), decode fmt bs = .ok i →
    i.wf = true ∧ formatOf i = fmt ∧ ∃ more, bs = encode i ++ more ∧ (fmt ≠ .hostOp → more = [])

/-- Words written out from the spec's encodings decode to their instructions (R71, R79, R81, R74, R86, R92, R95). -/
def Obligations.SpecWordsDecode : Prop :=
  decode .hostOp [0x03] = .ok .nextFrame ∧ decode .hostOp [0x05] = .ok .reset ∧
  decode .hostOp [0x06] = .ok .reservedOp6 ∧
  decode .request [0x81, 0x09, 0x04, 0x00, 0xFF] = .ok (.reqInquiry ⟨1, 0x04, [0x00]⟩) ∧
  decode .reply [0x90, 0x41, 0xFF] = .ok (.rplAck ⟨9, 0, 1, []⟩) ∧
  decode .reply [0x90, 0x50, 0x02, 0xFF] = .ok (.rplCompletion ⟨9, 0, 0, [0x02]⟩) ∧
  decode .reply [0x90, 0x61, 0x41, 0xFF] = .ok (.rplError ⟨9, 0, 1, [0x41]⟩) ∧
  decode .errorCode [0x41] = .ok .errNotExecutable ∧ decode .category [0x06] = .ok .catPanTilter ∧
  decode .pseudo [0x81, 0x01, 0x04, 0x47, 0x00, 0x01, 0x0B, 0x0C, 0xFF] = .ok (.zoomSet 1 0x01BC)

/-- A step runs the decoded instruction: the host's operation at rest, the latched request in TX, and in RX1 and RX2
the reply frame that the receive buffer begins with, once it is taken out of the buffer. -/
def Obligations.StepRunsTheDecodedInstruction : Prop :=
  ∀ (s : State) (i : Instr), s.powerOn = false →
    (∀ w rest, s.seq = .idle ∨ s.seq = .fault → s.host = w :: rest → decodeHostWord w = .ok i →
      step s = exec i { s with host := rest }) ∧
    (∀ f, s.seq = .tx → txBytes s = some f → decode .request f = .ok i → step s = exec i s) ∧
    (∀ f rest, s.seq = .rx1 ∨ s.seq = .rx2 → isFrame f → 3 ≤ f.length → holds s (f ++ rest) →
      decode .reply f = .ok i →
      ∃ t, holds t rest ∧ t = { s with rxBuf := t.rxBuf, rxCnt := t.rxCnt } ∧ step s = exec i t)

/-! ## SR -/

/-- R140, R141: NEXT_FRAME enters RXF; when a whole frame is held there, the next step returns it without a channel read,
and what follows it stays held. -/
def Obligations.NextFrameReturnsAHeldFrame : Prop :=
  (∀ s : State, s.seq = .idle → exec .nextFrame s = .next { s with seq := .rxf }) ∧
  (∀ (s : State) (f rest : List Byte), s.seq = .rxf → s.powerOn = false → isFrame f → holds s (f ++ rest) →
    ∃ t, step s = .next t ∧ t.seq = .idle ∧
      t.resultBytes = some f ∧ t.resLen = f.length ∧ t.resCode = .ok ∧ t.resDetail = 0 ∧ holds t rest ∧
      t = { s with seq := t.seq, rxBuf := t.rxBuf, rxCnt := t.rxCnt, resData := t.resData, resLen := t.resLen,
                   resCode := t.resCode, resDetail := t.resDetail })

/-- R152: while NEXT_FRAME is collecting a frame, and when it ends, `suspect` and `fault_cause` are unchanged, and its end
returns to IDLE. It writes no register but those R140 names. -/
def Obligations.NextFrameKeepsTheFlags : Prop :=
  ∀ s t : State, s.seq = .rxf → s.powerOn = false → step s = .next t →
    t.suspect = s.suspect ∧ t.faultCause = s.faultCause ∧ t.txFrame = s.txFrame ∧ t.txLen = s.txLen ∧
    t.resClass = s.resClass ∧ t.resAddr = s.resAddr ∧ t.resSocket = s.resSocket ∧ t.host = s.host ∧
    ((t.seq = .rxf ∧ t.resCode = s.resCode ∧ t.resDetail = s.resDetail ∧ t.resLen = s.resLen ∧ t.resData = s.resData) ∨
      (t.seq = .idle ∧ t.resCode.code = 0x00) ∨
      (t.seq = .idle ∧ t.resCode.code ∈ ([0x20, 0x30] : List Byte) ∧ t.resLen = s.resLen ∧ t.resData = s.resData))

/-- R142: extraction takes the bytes up to and including the first terminator; the rest moves to the front in its
order and the count falls by the frame's length. -/
def Obligations.ExtractTakesTheFirstFrame : Prop :=
  ∀ (s : State) (g rest : List Byte), (0xFF : Byte) ∉ g → holds s (g ++ 0xFF :: rest) →
    ∃ t, nextFrameTurn s = .frame (g ++ [0xFF]) t ∧ t.rxCnt + (g.length + 1) = s.rxCnt ∧ holds t rest ∧
      t = { s with rxBuf := t.rxBuf, rxCnt := t.rxCnt }

/-- R143, R145: with no terminator held and room left, a read asks for the free space, and the bytes it answers are
appended in order. -/
def Obligations.ReadAppendsTheBytes : Prop :=
  ∀ (s : State) (h bs : List Byte) (rest : List ChanAnswer), s.seq.receiving = true → s.powerOn = false →
    holds s h → (0xFF : Byte) ∉ h → s.script = .bytes bs :: rest → 1 ≤ bs.length → bs.length ≤ 16 - s.rxCnt →
    ∃ t, step s = .next t ∧ holds t (h ++ bs) ∧ t.rxCnt = s.rxCnt + bs.length ∧
      t.issued = s.issued ++ [.read (16 - s.rxCnt)] ∧ t.script = rest ∧
      t = { s with rxBuf := t.rxBuf, rxCnt := t.rxCnt, issued := t.issued, script := t.script }

/-- R144: any number of interruptions change no state of the block; each is one more read of the same free space. -/
def Obligations.InterruptedReadsAreRetried : Prop :=
  ∀ (n : Nat) (s : State) (h : List Byte) (rest : List ChanAnswer), s.seq.receiving = true → s.powerOn = false →
    holds s h → (0xFF : Byte) ∉ h → h.length < 16 → s.script = List.replicate n .interrupted ++ rest →
    runSteps n s = .next { s with script := rest, issued := s.issued ++ List.replicate n (.read (16 - s.rxCnt)) }

/-- R146, R149: a zero read and a read error end NEXT_FRAME with TRANSPORT, and TRANSACT too, which marks the session;
held bytes stay. -/
def Obligations.ReadErrorsEndWithTransport : Prop :=
  ∀ (s : State) (h : List Byte) (a : ChanAnswer) (rest : List ChanAnswer) (d : Byte),
    s.seq.receiving = true → s.powerOn = false → holds s h → (0xFF : Byte) ∉ h → h.length < 16 →
    s.script = a :: rest →
    (a = .zero ∧ d = 2) ∨ (a = .rerr .io ∧ d = 0) ∨ (a = .rerr .timeout ∧ d = 1) ∨ (a = .rerr .closed ∧ d = 2) ∨
      (∃ n, a = .rerr (.other n) ∧ d = chanErrDetail (.other n)) →
    step s = .next { s with
      resCode := .transport, resDetail := d, seq := .idle,
      suspect := if s.seq = .rxf then s.suspect else true,
      script := rest, issued := s.issued ++ [.read (16 - s.rxCnt)] }

/-- R147: a full buffer without a terminator fails with BufferFull, makes no read and discards nothing; a full buffer with
one is extracted, not failed. -/
def Obligations.BufferFullDiscardsNothing : Prop :=
  ∀ (s : State) (h : List Byte), s.powerOn = false → holds s h → h.length = 16 →
    ((0xFF : Byte) ∉ h → s.seq.receiving = true → step s = .next { s with
      resCode := .resourceBufferFull, resDetail := 0, seq := .idle,
      suspect := if s.seq = .rxf then s.suspect else true }) ∧
    (∀ g rest, h = g ++ 0xFF :: rest → (0xFF : Byte) ∉ g → s.seq = .rxf →
      ∃ t, step s = .next t ∧ t.resCode = .ok ∧ t.resultBytes = some (g ++ [0xFF]) ∧ holds t rest)

/-- R148, R248: once the buffer is full without a terminator, every NEXT_FRAME of the host's program fails the same way and
without a read. That each takes 2 steps is the model's choice of step (log entry 1). -/
def Obligations.BufferFullIsSticky : Prop :=
  ∀ (s : State) (h : List Byte) (n : Nat), s.powerOn = false → holds s h → h.length = 16 → (0xFF : Byte) ∉ h →
    s.seq = .idle → s.host = List.replicate (n + 1) (.op [0x03]) →
    runSteps (2 * (n + 1)) s = .next { s with resCode := .resourceBufferFull, resDetail := 0, host := [] }

/-- R150: fragmentation invariance. However the stream of N frames is split into reads, with interruptions between
them, N calls of NEXT_FRAME return the N frames in order and leave the buffer empty. -/
def Obligations.FragmentationInvariance : Prop :=
  ∀ (s : State) (fs : List (List Byte)), s.seq = .idle → s.powerOn = false → holds s [] →
    (∀ f ∈ fs, isFrame f) → legalFrom [] s.script → scriptBytes s.script = fs.flatten →
    ∃ t, callNextFrames fs.length s = some (fs, t) ∧ t.rxCnt = 0

/-- R153 for NEXT_FRAME: from RXF to the end of the call, the reads that answer bytes are at most the free space. -/
def Obligations.ReadsPerCallAreBounded : Prop :=
  ∀ (k : Nat) (s t : State), Inv s → s.seq = .rxf → s.host = [] → s.powerOn = false → runSteps k s = .next t →
    (byteReads s.script).length ≤ (byteReads t.script).length + (16 - s.rxCnt)

/-- R54, R59: a receive step neither loses nor reorders bytes: it takes one whole frame from the front of the held
bytes, or the held bytes followed by the channel's remaining bytes are what they were. -/
def Obligations.ReceiveStepsKeepTheStream : Prop :=
  ∀ (s t : State) (h : List Byte), s.seq.receiving = true → s.powerOn = false → holds s h → step s = .next t →
    (∃ f rest, isFrame f ∧ h = f ++ rest ∧ holds t rest ∧ t.script = s.script) ∨
    (∃ h', holds t h' ∧ h' ++ scriptBytes t.script = h ++ scriptBytes s.script)

/-! ## PS -/

/-- R171: TRANSACT latches the frame that BUILD would build and enters TX; nothing is written or read yet. Where BUILD
enters FAULT or is refused, TRANSACT does the same. -/
def Obligations.TransactLatchesTheRequest : Prop :=
  ∀ (q : HostReq) (s : State), s.seq = .idle →
    (q.cat ∈ s.categoryCodes → q.plen.toNat ≤ 12 → q.addr.toNat ≤ 7 → q.pdata.length = 12 →
      ∃ t, exec (.transact q) s = .next t ∧ t.seq.code = 1 ∧
        txBytes t = some ([0x80 ||| q.addr, if q.kind = .command then 0x01 else 0x09, q.cat] ++
          q.pdata.take q.plen.toNat ++ [0xFF]) ∧
        t.txLen = some (4 + q.plen.toNat) ∧
        t = { s with seq := t.seq, txFrame := t.txFrame, txLen := t.txLen }) ∧
    (∀ t, exec (.build q) s = .next t → t.seq = .fault → exec (.transact q) s = .next t) ∧
    (∀ e, exec (.build q) s = .refused e → exec (.transact q) s = .refused e)

/-- R91 to R100: each Command Layer operation is the TRANSACT of its frame. -/
def Obligations.CommandLayerOperationsExpandToTransact : Prop :=
  ∀ (s : State) (a : BitVec 3) (v pan tilt : BitVec 16) (x d0 d1 d2 d3 d4 slot : Byte), s.seq = .idle →
    ∀ i f, (i, f) ∈ ([
      (.powerGet a, [0x80 ||| a.setWidth 8, 0x09, 0x04, 0x00, 0xFF]),
      (.powerSet a x, [0x80 ||| a.setWidth 8, 0x01, 0x04, 0x00, x, 0xFF]),
      (.zoomGet a, [0x80 ||| a.setWidth 8, 0x09, 0x04, 0x47, 0xFF]),
      (.zoomSet a v, [0x80 ||| a.setWidth 8, 0x01, 0x04, 0x47] ++ nib v ++ [0xFF]),
      (.panTiltGet a, [0x80 ||| a.setWidth 8, 0x09, 0x06, 0x12, 0xFF]),
      (.panTiltSetAbsolute a pan tilt,
        [0x80 ||| a.setWidth 8, 0x01, 0x06, 0x02, 0x01, 0x00] ++ nib pan ++ nib tilt ++ [0xFF]),
      (.panTiltSetRelative a pan tilt,
        [0x80 ||| a.setWidth 8, 0x01, 0x06, 0x03, 0x01, 0x00] ++ nib pan ++ nib tilt ++ [0xFF]),
      (.panTiltJogOrStop a d0 d1 d2 d3 d4, [0x80 ||| a.setWidth 8, 0x01, 0x06, d0, d1, d2, d3, d4, 0xFF]),
      (.presetsSetResetRecall a x slot, [0x80 ||| a.setWidth 8, 0x01, 0x04, 0x3F, x, slot &&& 0x0F, 0xFF])]
        : List (Instr × List Byte)) →
    ∃ t, exec i s = .next t ∧ t.seq = .tx ∧ txBytes t = some f ∧
      t = { s with seq := t.seq, txFrame := t.txFrame, txLen := t.txLen }

/-- R92, R94, R96, R102: the consumer's checks of a completion payload. -/
def Obligations.ConsumerChecksDecodeThePayload : Prop :=
  (∀ b : Byte, checkPower [b] = if b = 0x02 then .value .on else if b = 0x03 then .value .off else .invalidValue) ∧
  (∀ v : BitVec 16, checkZoom (nib v) = .value v) ∧
  (∀ pan tilt : BitVec 16, checkPanTilt (nib pan ++ nib tilt) = .value (pan.toInt, tilt.toInt)) ∧
  (∀ p, checkPower p = .protocolViolation ↔ p.length ≠ 1) ∧
  (∀ p, checkZoom p = .protocolViolation ↔ p.length ≠ 4) ∧
  (∀ p, checkPanTilt p = .protocolViolation ↔ p.length ≠ 8) ∧
  (∀ p, checkEmpty p = .protocolViolation ↔ p ≠ [])

/-- R172: in TX the request is written once; the whole write goes on to RX1, a partial write and a write error end the
exchange. -/
def Obligations.TransmitWritesTheFrameOnce : Prop :=
  ∀ (s : State) (r : Request) (rest : List ChanAnswer) (i : Instr) (f : List Byte), s.seq = .tx →
    (i = .reqCommand r ∧ f = enc r.addr .command r.cat r.payload) ∨
      (i = .reqInquiry r ∧ f = enc r.addr .inquiry r.cat r.payload) →
    (s.script = .wrote f.length :: rest →
      exec i s = .next { s with seq := .rx1, script := rest, issued := s.issued ++ [.write f] }) ∧
    (∀ n, n < f.length → s.script = .wrote n :: rest →
      exec i s = .next { s with resCode := .transport, resDetail := 3, suspect := true, seq := .idle, script := rest,
                                issued := s.issued ++ [.write f] }) ∧
    (∀ e, s.script = .werr e :: rest →
      exec i s = .next { s with resCode := .transport, resDetail := chanErrDetail e, suspect := true, seq := .idle,
                                script := rest, issued := s.issued ++ [.write f] })

/-- R174: the first reply, by class. -/
def Obligations.FirstReplyByClass : Prop :=
  ∀ (s : State) (r : Reply), s.seq = .rx1 →
    exec (.rplAck r) s = .next { s with seq := .rx2 } ∧
    (∃ t, exec (.rplCompletion r) s = .next t ∧ t.resultBytes = some r.body ∧ t.resLen = r.body.length ∧
      t.resCode.code = 0 ∧ t.resDetail = 0 ∧ t.seq.code = 0 ∧
      t = { s with resData := t.resData, resLen := t.resLen, resCode := t.resCode, resDetail := t.resDetail,
                   seq := t.seq }) ∧
    (∃ t, exec (.rplError r) s = .next t ∧ t.resCode.code = 1 ∧ t.resDetail = (r.body ++ [0xFF]).headD 0 ∧
      t.deviceErrorKind = some (errorKindOf t.resDetail) ∧ t.seq.code = 0 ∧
      t = { s with resCode := t.resCode, resDetail := t.resDetail, seq := t.seq })

/-- R176: the second reply, by class; a second Ack is an unexpected reply. -/
def Obligations.SecondReplyByClass : Prop :=
  ∀ (s : State) (r : Reply), s.seq = .rx2 →
    exec (.rplAck r) s = .next { s with resCode := .protoUnexpectedReply, resDetail := 4, suspect := true,
                                        seq := .idle } ∧
    (∃ t, exec (.rplCompletion r) s = .next t ∧ t.resultBytes = some r.body ∧ t.resLen = r.body.length ∧
      t.resCode.code = 0 ∧ t.resDetail = 0 ∧ t.seq.code = 0 ∧
      t = { s with resData := t.resData, resLen := t.resLen, resCode := t.resCode, resDetail := t.resDetail,
                   seq := t.seq }) ∧
    (∃ t, exec (.rplError r) s = .next t ∧ t.resCode.code = 1 ∧ t.resDetail = (r.body ++ [0xFF]).headD 0 ∧
      t.deviceErrorKind = some (errorKindOf t.resDetail) ∧ t.seq.code = 0 ∧
      t = { s with resCode := t.resCode, resDetail := t.resDetail, seq := t.seq })

/-- R173, R175: a reply of a reserved type ends the exchange with its nibble, as the first and as the second reply. -/
def Obligations.ReservedReplyTypesEndTheExchange : Prop :=
  ∀ (s : State) (r : Reply), s.seq = .rx1 ∨ s.seq = .rx2 →
    ∀ i n, (i, n) ∈ ([(.rplReservedType0 r, 0x0), (.rplReservedType1 r, 0x1), (.rplReservedType2 r, 0x2),
      (.rplReservedType3 r, 0x3), (.rplReservedType7 r, 0x7), (.rplReservedType8 r, 0x8), (.rplReservedType9 r, 0x9),
      (.rplReservedTypeA r, 0xA), (.rplReservedTypeB r, 0xB), (.rplReservedTypeC r, 0xC), (.rplReservedTypeD r, 0xD),
      (.rplReservedTypeE r, 0xE), (.rplReservedTypeF r, 0xF)] : List (Instr × Byte)) →
    ∃ t, exec i s = .next t ∧ t.resCode.code = 0x11 ∧ t.resDetail = n ∧ t.suspect = true ∧ t.seq = .idle ∧
      t = { s with resCode := t.resCode, resDetail := t.resDetail, suspect := t.suspect, seq := t.seq }

/-- R173, R175, R177: a reply frame of 1 or 2 bytes is consumed and ends the exchange as too short. -/
def Obligations.ShortRepliesEndTheExchange : Prop :=
  ∀ (s : State) (f rest : List Byte), s.seq = .rx1 ∨ s.seq = .rx2 → s.powerOn = false → isFrame f →
    f.length < 3 → holds s (f ++ rest) →
    ∃ t, step s = .next t ∧ t.resCode.code = 0x10 ∧ t.resDetail.toNat = f.length ∧ t.suspect = true ∧
      t.seq = .idle ∧ holds t rest ∧
      t = { s with rxBuf := t.rxBuf, rxCnt := t.rxCnt, resCode := t.resCode, resDetail := t.resDetail,
                   suspect := t.suspect, seq := t.seq }

/-- R81, R174, R176, R74: an error code received in an exchange ends it with DEVICE_ERROR and that code, which is what
an Error reply carrying it does. The two category codes the spec names are admitted by every machine, whatever it extends
`CATEGORY_CODES` by, and are the default; an admitted code changes nothing (log entries 11 and 12). -/
def Obligations.ErrorAndCategoryCodes : Prop :=
  (∀ (s : State) (c : Byte), s.seq = .rx1 ∨ s.seq = .rx2 →
    ∀ i n, (i, n) ∈ ([(.errMsgLength, 0x01), (.errSyntax, 0x02), (.errFullBuffer, 0x03), (.errCanceled, 0x04),
      (.errNoSocket, 0x05), (.errNotExecutable, 0x41), (.errOther c, c)] : List (Instr × Byte)) →
    ∃ t, exec i s = .next t ∧ t.resCode.code = 0x01 ∧ t.resDetail = n ∧ t.seq = .idle ∧
      t = { s with resCode := t.resCode, resDetail := t.resDetail, seq := t.seq }) ∧
  (∀ (s : State) (r : Reply) (i : Instr), s.seq = .rx1 ∨ s.seq = .rx2 → decode .errorCode [r.code] = .ok i →
    exec (.rplError r) s = exec i s) ∧
  (∀ s : State, (0x04 : Byte) ∈ s.categoryCodes ∧ (0x06 : Byte) ∈ s.categoryCodes ∧
    (∀ c, c ∈ s.categoryCodes ↔ c = 0x04 ∨ c = 0x06 ∨ c ∈ s.extraCategories) ∧
    exec .catCamera1 s = .next s ∧ exec .catPanTilter s = .next s)

/-- Frame rows outside the sequencer state that handles them have no effect; in RXF a reply row returns its frame (the
model's choice, log entries 10 and 11). -/
def Obligations.FrameRowsElsewhere : Prop :=
  ∀ (s : State),
    (∀ r, s.seq ≠ .tx → exec (.reqCommand r) s = .next s ∧ exec (.reqInquiry r) s = .next s) ∧
    (∀ n r, s.seq = .idle ∨ s.seq = .tx ∨ s.seq = .fault → exec (replyRow n r) s = .next s) ∧
    (∀ c i, s.seq ≠ .rx1 → s.seq ≠ .rx2 → decode .errorCode [c] = .ok i → exec i s = .next s) ∧
    (∀ n r, s.seq = .rxf → ∃ t, exec (replyRow n r) s = .next t ∧ t.resultBytes = some (replyFrame n r) ∧
      t.resLen = (replyFrame n r).length ∧ t.resCode = .ok ∧ t.resDetail = 0 ∧ t.seq = .idle ∧
      t = { s with resData := t.resData, resLen := t.resLen, resCode := t.resCode, resDetail := t.resDetail,
                   seq := t.seq })

/-- R178: in an exchange, what a reply does depends on its type and body alone: not on the address nibble, the low
nibble of byte 0, or the socket. -/
def Obligations.ExchangeIgnoresAddressAndSocket : Prop :=
  ∀ (s : State) (t : Nibble) (r r' : Reply), s.seq = .rx1 ∨ s.seq = .rx2 → r.body = r'.body →
    exec (replyRow t r) s = exec (replyRow t r') s

/-- R182: how replies are handled does not depend on the request, its kind among it: two receive steps that differ
only in the transmit register differ only there afterwards. -/
def Obligations.ReplyHandlingIgnoresTheRequest : Prop :=
  ∀ (s : State) (f : List (Option Byte)) (n : Option Nat), s.seq.receiving = true → s.powerOn = false →
    nextState? (step { s with txFrame := f, txLen := n }) =
      (nextState? (step s)).map fun t => { t with txFrame := f, txLen := n }

/-- A whole exchange with one Completion: the request is written, one read is made, and the payload is the result. That
it takes 4 steps is the model's choice of step (log entry 1). -/
def Obligations.ExchangeWithCompletionReturnsThePayload : Prop :=
  ∀ (s : State) (q : HostReq) (r : Reply) (hs : List HostWord) (rest : List ChanAnswer),
    s.seq = .idle → s.powerOn = false → holds s [] → q.wf = true → q.cat ∈ s.categoryCodes →
    q.plen.toNat ≤ 12 → q.addr.toNat ≤ 7 → r.wf 0x5 = true → s.host = .op (encode (.transact q)) :: hs →
    s.script = .wrote (4 + q.plen.toNat) :: .bytes (replyFrame 0x5 r) :: rest →
    ∃ t, runSteps 4 s = .next t ∧ t.resCode = .ok ∧ t.resDetail = 0 ∧ t.resultBytes = some r.body ∧
      t.resLen = r.body.length ∧ t.seq = .idle ∧ holds t [] ∧ t.suspect = s.suspect ∧
      t.host = hs ∧ t.script = rest ∧ t.issued = s.issued ++ [.write (requestFrame q), .read 16]

/-- A whole exchange with Ack and Completion, in two reads or, when both fit the buffer, in one. The counts of 6 and 5
steps are the model's choice of step (log entry 1). -/
def Obligations.ExchangeWithAckThenCompletion : Prop :=
  ∀ (s : State) (q : HostReq) (r1 r2 : Reply) (hs : List HostWord) (rest : List ChanAnswer),
    s.seq = .idle → s.powerOn = false → holds s [] → q.wf = true → q.cat ∈ s.categoryCodes →
    q.plen.toNat ≤ 12 → q.addr.toNat ≤ 7 → r1.wf 0x4 = true → r2.wf 0x5 = true →
    s.host = .op (encode (.transact q)) :: hs →
    (s.script = .wrote (4 + q.plen.toNat) :: .bytes (replyFrame 0x4 r1) :: .bytes (replyFrame 0x5 r2) :: rest →
      ∃ t, runSteps 6 s = .next t ∧ t.resCode = .ok ∧ t.resultBytes = some r2.body ∧ t.seq = .idle ∧ holds t [] ∧
        t.suspect = s.suspect ∧ t.host = hs ∧ t.script = rest ∧
        t.issued = s.issued ++ [.write (requestFrame q), .read 16, .read 16]) ∧
    (s.script = .wrote (4 + q.plen.toNat) :: .bytes (replyFrame 0x4 r1 ++ replyFrame 0x5 r2) :: rest →
      r1.body.length + r2.body.length ≤ 10 →
      ∃ t, runSteps 5 s = .next t ∧ t.resCode = .ok ∧ t.resultBytes = some r2.body ∧ t.seq = .idle ∧ holds t [] ∧
        t.suspect = s.suspect ∧ t.host = hs ∧ t.script = rest ∧
        t.issued = s.issued ++ [.write (requestFrame q), .read 16])

/-- A whole exchange that ends with a device error, as the first reply without a second read, or after an Ack. The counts
of 4 and 6 steps are the model's choice of step (log entry 1). -/
def Obligations.ExchangeWithDeviceError : Prop :=
  ∀ (s : State) (q : HostReq) (r1 r2 : Reply) (hs : List HostWord) (rest : List ChanAnswer),
    s.seq = .idle → s.powerOn = false → holds s [] → q.wf = true → q.cat ∈ s.categoryCodes →
    q.plen.toNat ≤ 12 → q.addr.toNat ≤ 7 → r1.wf 0x4 = true → r2.wf 0x6 = true →
    s.host = .op (encode (.transact q)) :: hs →
    (s.script = .wrote (4 + q.plen.toNat) :: .bytes (replyFrame 0x6 r2) :: rest →
      ∃ t, runSteps 4 s = .next t ∧ t.deviceErrorKind = some (errorKindOf r2.code) ∧ t.resDetail = r2.code ∧
        t.seq = .idle ∧ t.suspect = s.suspect ∧ t.script = rest ∧
        t.issued = s.issued ++ [.write (requestFrame q), .read 16]) ∧
    (s.script = .wrote (4 + q.plen.toNat) :: .bytes (replyFrame 0x4 r1) :: .bytes (replyFrame 0x6 r2) :: rest →
      ∃ t, runSteps 6 s = .next t ∧ t.deviceErrorKind = some (errorKindOf r2.code) ∧ t.resDetail = r2.code ∧
        t.seq = .idle ∧ t.suspect = s.suspect ∧ t.script = rest ∧
        t.issued = s.issued ++ [.write (requestFrame q), .read 16, .read 16])

/-- R219: nothing is rolled back: after an Ack and a read timeout the Ack stays consumed and the request latched. That the
old result bytes stay in place is the model's choice (DESIGN CHOICE, log entry 9: R27 gives such registers no value to rely
on), and so is the count of 5 steps (log entry 1). -/
def Obligations.FailedExchangeRollsNothingBack : Prop :=
  ∀ (s : State) (q : HostReq) (r : Reply) (hs : List HostWord) (rest : List ChanAnswer),
    s.seq = .idle → s.powerOn = false → holds s [] → q.wf = true → q.cat ∈ s.categoryCodes →
    q.plen.toNat ≤ 12 → q.addr.toNat ≤ 7 → r.wf 0x4 = true → s.host = .op (encode (.transact q)) :: hs →
    s.script = .wrote (4 + q.plen.toNat) :: .bytes (replyFrame 0x4 r) :: .rerr .timeout :: rest →
    ∃ t, runSteps 5 s = .next t ∧ t.resCode = .transport ∧ t.resDetail = 1 ∧ t.suspect = true ∧ t.seq = .idle ∧
      holds t [] ∧ txBytes t = some (requestFrame q) ∧ t.resData = s.resData ∧ t.resLen = s.resLen

/-- R243, R244: a frame held when TRANSACT is issued is taken as its reply, without a read and without a mark. The count
of 3 steps is the model's choice of step (log entry 1). -/
def Obligations.StaleReplyAnswersTheNextRequest : Prop :=
  ∀ (s : State) (q : HostReq) (r : Reply) (more : List Byte) (hs : List HostWord) (rest : List ChanAnswer),
    s.seq = .idle → s.powerOn = false → holds s (replyFrame 0x5 r ++ more) → q.wf = true →
    q.cat ∈ s.categoryCodes → q.plen.toNat ≤ 12 → q.addr.toNat ≤ 7 → r.wf 0x5 = true →
    s.host = .op (encode (.transact q)) :: hs → s.script = .wrote (4 + q.plen.toNat) :: rest →
    ∃ t, runSteps 3 s = .next t ∧ t.resCode = .ok ∧ t.resultBytes = some r.body ∧ t.seq = .idle ∧ holds t more ∧
      t.suspect = s.suspect ∧ t.script = rest ∧ t.issued = s.issued ++ [.write (requestFrame q)]

/-! ## The whole machine -/

/-- R28, R180: `suspect` is cleared by RESET alone; an exchange that ends with a transport, protocol or resource error
sets it, and nothing else does. -/
def Obligations.SuspectIsStickyAndMarksFailedExchanges : Prop :=
  ∀ s t : State, s.powerOn = false → step s = .next t →
    (s.suspect = true → t.suspect = true ∨
      (atRest s ∧ ∃ w rest, s.host = w :: rest ∧ decodeHostWord w = .ok .reset)) ∧
    (s.suspect = false → t.suspect = true →
      (s.seq = .tx ∨ s.seq = .rx1 ∨ s.seq = .rx2) ∧ t.seq = .idle ∧
        t.resCode.code ∈ ([0x10, 0x11, 0x12, 0x20, 0x30] : List Byte)) ∧
    (s.seq = .tx ∨ s.seq = .rx1 ∨ s.seq = .rx2 → t.seq = .idle →
      (t.resCode.code ∈ ([0x10, 0x11, 0x12, 0x20, 0x30] : List Byte) ∧ t.suspect = true) ∨
      (t.resCode.code ∈ ([0x00, 0x01] : List Byte) ∧ t.suspect = s.suspect))

/-- R25: how the sequencer moves. The block waits in IDLE, FAULT and the receive states, never in TX (R204, R226). -/
def Obligations.SequencerMoves : Prop :=
  ∀ s t : State, s.powerOn = false → step s = .next t →
    (s.seq = .idle → t.seq ∈ ([.idle, .tx, .rxf, .fault] : List Seq)) ∧
    (s.seq = .fault → t.seq ∈ ([.fault, .idle] : List Seq)) ∧
    (s.seq = .tx → t.seq ∈ ([.rx1, .idle] : List Seq)) ∧
    (s.seq = .rx1 → t.seq ∈ ([.rx1, .rx2, .idle] : List Seq)) ∧
    (s.seq = .rx2 → t.seq ∈ ([.rx2, .idle] : List Seq)) ∧
    (s.seq = .rxf → t.seq ∈ ([.rxf, .idle] : List Seq))

/-- R59, R183: the channel transactions of a step. Every step from TX makes the one write of the latched frame, so none
waits there (R204, R226); a read of the free space is made in a receive state with no terminator held; no other step
makes any. That a write the script does not answer is no step is the model's choice (log entry 4). -/
def Obligations.TransactionsOfAStep : Prop :=
  ∀ s t : State, s.powerOn = false → step s = .next t →
    (s.seq = .tx → s.script ≠ [] ∧ ∃ f, txBytes s = some f ∧ t.issued = s.issued ++ [.write f]) ∧
    (t.issued = s.issued ∨
      s.seq = .tx ∨
      (s.seq.receiving = true ∧ (∃ h, held s = some h ∧ Config.term ∉ h) ∧
        t.issued = s.issued ++ [.read (16 - s.rxCnt)]))

/-- The detail byte of an unnamed channel error is in 4..255, whatever `chan_err_code` is (D25, R211). -/
def Obligations.OtherChannelErrorsAreDistinguished : Prop :=
  ∀ n : Nat, 4 ≤ (chanErrDetail (.other n)).toNat ∧ chanErrDetail (.other n) ≠ chanErrDetail .io ∧
    chanErrDetail (.other n) ≠ chanErrDetail .timeout ∧ chanErrDetail (.other n) ≠ chanErrDetail .closed ∧
    chanErrDetail (.other n) ≠ partialWriteDetail

/-- R34: the values of the held bytes are not in the status view, and no operation but NEXT_FRAME and TRANSACT reads
them: two states that differ only in the held bytes show the same view, also after such an operation. -/
def Obligations.HeldBytesAreHidden : Prop :=
  ∀ (i : Instr) (s : State) (buf : List (Option Byte)), s.seq = .idle →
    (∃ q, i = .build q) ∨ (∃ n f, i = .parse n f) ∨ i = .reset ∨ i = .reservedOp0 ∨ i = .reservedOp6 ∨
      i = .reservedOp7 →
    ({ s with rxBuf := buf } : State).statusView = s.statusView ∧
      (nextState? (exec i { s with rxBuf := buf })).map State.statusView = (nextState? (exec i s)).map State.statusView

/-- The invariant is kept by every step, from every state that meets it. It says of the registers what R21 to R23, R26,
R27 and R29 say, and of the result code and its detail what the table of R211 says (with OK, log entry 19). -/
def Obligations.EveryStepKeepsTheInvariant : Prop :=
  ∀ s t : State, Inv s → step s = .next t → Inv t

/-- Every state that moves of host, channel, block and power-on reach from reset meets the invariant, and no step of it
faults. -/
def Obligations.ReachableStatesMeetTheInvariantAndNeverFault : Prop :=
  ∀ s : State, Reachable s → Inv s ∧ ∀ e, step s ≠ .fault e

/-! ## Channels and programs -/

/-- R251: every operation ends if the channel answers every transaction, and a read, after finitely many interruptions,
with something else; and a channel that answers `Interrupted` without end keeps the operation going for ever: each step is
one more read, and the state changes in nothing else. Fairness is the premise `Channel.fair`, no law of the step (log
entry 25). -/
def Obligations.FairChannelEndsEveryOperation : Prop :=
  (∀ (c : Channel) (s : State), c.legal → c.fair → Inv s → s.powerOn = false → s.script = [] →
    ∃ k t, c.run 0 k s = .next t ∧ atRest t) ∧
  (∀ (c : Channel) (n : Nat) (s : State) (h : List Byte), (∀ m max, c.onRead m max = some .interrupted) →
    s.seq.receiving = true → s.powerOn = false → s.script = [] → holds s h → (0xFF : Byte) ∉ h → h.length < 16 →
    ∀ k, ∃ t, c.run n k s = .next t ∧ t = { s with issued := t.issued } ∧ t.issued.length = s.issued.length + k)

/-- R252: an ended run and a stuck run are two different things, and they are exactly the states in which the step stays
where it is; every run of a program comes to its end, or is stuck, or is refused; and the observation is the status view
and the frames written of the state that ends the run. That a step answers its own state there is the model's choice (log
entries 2 and 4). -/
def Obligations.RunsOfProgramsComeToAnEnd : Prop :=
  (∀ s : State, s.powerOn = false → (step s = .next s ↔ ended s ∨ stuck s)) ∧
  (∀ s : State, ¬(ended s ∧ stuck s)) ∧
  (∀ (p : Program) (s : State), Inv s → atRest s → s.powerOn = false →
    ∃ k, (∃ o, runProgram k (p.launch s) = .ended o) ∨ runProgram k (p.launch s) = .stuck ∨
      ∃ r, runProgram k (p.launch s) = .refused r) ∧
  (∀ (k : Nat) (s : State) (o : Observation), runProgram k s = .ended o →
    ∃ j t, j ≤ k ∧ runSteps j s = .next t ∧ ended t ∧ o = ⟨t.statusView, t.framesWritten⟩)
end

