-- ==== Sys2Proof/Laws/State.lean ====
section
/-! SUPPORT. What each update of the state does to each field: one lemma per field per update, all true by rfl. -/

namespace Sys2Proof.Machine

variable (s : State)

/-! ### `bufWrite` -/

@[simp] theorem bufWrite_rxBuf (i : Nat) (v : Byte) : (bufWrite i v s).rxBuf = s.rxBuf.set i (some v) := rfl
@[simp] theorem bufWrite_rxCnt (i : Nat) (v : Byte) : (bufWrite i v s).rxCnt = s.rxCnt := rfl
@[simp] theorem bufWrite_seq (i : Nat) (v : Byte) : (bufWrite i v s).seq = s.seq := rfl
@[simp] theorem bufWrite_txFrame (i : Nat) (v : Byte) : (bufWrite i v s).txFrame = s.txFrame := rfl
@[simp] theorem bufWrite_txLen (i : Nat) (v : Byte) : (bufWrite i v s).txLen = s.txLen := rfl
@[simp] theorem bufWrite_resCode (i : Nat) (v : Byte) : (bufWrite i v s).resCode = s.resCode := rfl
@[simp] theorem bufWrite_resDetail (i : Nat) (v : Byte) : (bufWrite i v s).resDetail = s.resDetail := rfl
@[simp] theorem bufWrite_resLen (i : Nat) (v : Byte) : (bufWrite i v s).resLen = s.resLen := rfl
@[simp] theorem bufWrite_resData (i : Nat) (v : Byte) : (bufWrite i v s).resData = s.resData := rfl
@[simp] theorem bufWrite_resClass (i : Nat) (v : Byte) : (bufWrite i v s).resClass = s.resClass := rfl
@[simp] theorem bufWrite_resAddr (i : Nat) (v : Byte) : (bufWrite i v s).resAddr = s.resAddr := rfl
@[simp] theorem bufWrite_resSocket (i : Nat) (v : Byte) : (bufWrite i v s).resSocket = s.resSocket := rfl
@[simp] theorem bufWrite_suspect (i : Nat) (v : Byte) : (bufWrite i v s).suspect = s.suspect := rfl
@[simp] theorem bufWrite_faultCause (i : Nat) (v : Byte) : (bufWrite i v s).faultCause = s.faultCause := rfl
@[simp] theorem bufWrite_host (i : Nat) (v : Byte) : (bufWrite i v s).host = s.host := rfl
@[simp] theorem bufWrite_script (i : Nat) (v : Byte) : (bufWrite i v s).script = s.script := rfl
@[simp] theorem bufWrite_issued (i : Nat) (v : Byte) : (bufWrite i v s).issued = s.issued := rfl
@[simp] theorem bufWrite_powerOn (i : Nat) (v : Byte) : (bufWrite i v s).powerOn = s.powerOn := rfl
@[simp] theorem bufWrite_extraCategories (i : Nat) (v : Byte) : (bufWrite i v s).extraCategories = s.extraCategories := rfl

/-! ### `shift` -/

@[simp] theorem shift_rxBuf (k : Nat) : (shift k s).rxBuf = (s.rxBuf.take s.rxCnt).drop k ++
      List.replicate (Config.bufCap - ((s.rxBuf.take s.rxCnt).drop k).length) none := rfl
@[simp] theorem shift_rxCnt (k : Nat) : (shift k s).rxCnt = s.rxCnt - k := rfl
@[simp] theorem shift_seq (k : Nat) : (shift k s).seq = s.seq := rfl
@[simp] theorem shift_txFrame (k : Nat) : (shift k s).txFrame = s.txFrame := rfl
@[simp] theorem shift_txLen (k : Nat) : (shift k s).txLen = s.txLen := rfl
@[simp] theorem shift_resCode (k : Nat) : (shift k s).resCode = s.resCode := rfl
@[simp] theorem shift_resDetail (k : Nat) : (shift k s).resDetail = s.resDetail := rfl
@[simp] theorem shift_resLen (k : Nat) : (shift k s).resLen = s.resLen := rfl
@[simp] theorem shift_resData (k : Nat) : (shift k s).resData = s.resData := rfl
@[simp] theorem shift_resClass (k : Nat) : (shift k s).resClass = s.resClass := rfl
@[simp] theorem shift_resAddr (k : Nat) : (shift k s).resAddr = s.resAddr := rfl
@[simp] theorem shift_resSocket (k : Nat) : (shift k s).resSocket = s.resSocket := rfl
@[simp] theorem shift_suspect (k : Nat) : (shift k s).suspect = s.suspect := rfl
@[simp] theorem shift_faultCause (k : Nat) : (shift k s).faultCause = s.faultCause := rfl
@[simp] theorem shift_host (k : Nat) : (shift k s).host = s.host := rfl
@[simp] theorem shift_script (k : Nat) : (shift k s).script = s.script := rfl
@[simp] theorem shift_issued (k : Nat) : (shift k s).issued = s.issued := rfl
@[simp] theorem shift_powerOn (k : Nat) : (shift k s).powerOn = s.powerOn := rfl
@[simp] theorem shift_extraCategories (k : Nat) : (shift k s).extraCategories = s.extraCategories := rfl

/-! ### `setOk` -/

@[simp] theorem setOk_rxBuf (bs : List Byte) : (setOk bs s).rxBuf = s.rxBuf := rfl
@[simp] theorem setOk_rxCnt (bs : List Byte) : (setOk bs s).rxCnt = s.rxCnt := rfl
@[simp] theorem setOk_seq (bs : List Byte) : (setOk bs s).seq = s.seq := rfl
@[simp] theorem setOk_txFrame (bs : List Byte) : (setOk bs s).txFrame = s.txFrame := rfl
@[simp] theorem setOk_txLen (bs : List Byte) : (setOk bs s).txLen = s.txLen := rfl
@[simp] theorem setOk_resCode (bs : List Byte) : (setOk bs s).resCode = .ok := rfl
@[simp] theorem setOk_resDetail (bs : List Byte) : (setOk bs s).resDetail = 0 := rfl
@[simp] theorem setOk_resLen (bs : List Byte) : (setOk bs s).resLen = bs.length := rfl
@[simp] theorem setOk_resData (bs : List Byte) : (setOk bs s).resData = overlay bs s.resData := rfl
@[simp] theorem setOk_resClass (bs : List Byte) : (setOk bs s).resClass = s.resClass := rfl
@[simp] theorem setOk_resAddr (bs : List Byte) : (setOk bs s).resAddr = s.resAddr := rfl
@[simp] theorem setOk_resSocket (bs : List Byte) : (setOk bs s).resSocket = s.resSocket := rfl
@[simp] theorem setOk_suspect (bs : List Byte) : (setOk bs s).suspect = s.suspect := rfl
@[simp] theorem setOk_faultCause (bs : List Byte) : (setOk bs s).faultCause = s.faultCause := rfl
@[simp] theorem setOk_host (bs : List Byte) : (setOk bs s).host = s.host := rfl
@[simp] theorem setOk_script (bs : List Byte) : (setOk bs s).script = s.script := rfl
@[simp] theorem setOk_issued (bs : List Byte) : (setOk bs s).issued = s.issued := rfl
@[simp] theorem setOk_powerOn (bs : List Byte) : (setOk bs s).powerOn = s.powerOn := rfl
@[simp] theorem setOk_extraCategories (bs : List Byte) : (setOk bs s).extraCategories = s.extraCategories := rfl

/-! ### `setError` -/

@[simp] theorem setError_rxBuf (c : ResCode) (d : Byte) : (setError c d s).rxBuf = s.rxBuf := rfl
@[simp] theorem setError_rxCnt (c : ResCode) (d : Byte) : (setError c d s).rxCnt = s.rxCnt := rfl
@[simp] theorem setError_seq (c : ResCode) (d : Byte) : (setError c d s).seq = s.seq := rfl
@[simp] theorem setError_txFrame (c : ResCode) (d : Byte) : (setError c d s).txFrame = s.txFrame := rfl
@[simp] theorem setError_txLen (c : ResCode) (d : Byte) : (setError c d s).txLen = s.txLen := rfl
@[simp] theorem setError_resCode (c : ResCode) (d : Byte) : (setError c d s).resCode = c := rfl
@[simp] theorem setError_resDetail (c : ResCode) (d : Byte) : (setError c d s).resDetail = d := rfl
@[simp] theorem setError_resLen (c : ResCode) (d : Byte) : (setError c d s).resLen = s.resLen := rfl
@[simp] theorem setError_resData (c : ResCode) (d : Byte) : (setError c d s).resData = s.resData := rfl
@[simp] theorem setError_resClass (c : ResCode) (d : Byte) : (setError c d s).resClass = s.resClass := rfl
@[simp] theorem setError_resAddr (c : ResCode) (d : Byte) : (setError c d s).resAddr = s.resAddr := rfl
@[simp] theorem setError_resSocket (c : ResCode) (d : Byte) : (setError c d s).resSocket = s.resSocket := rfl
@[simp] theorem setError_suspect (c : ResCode) (d : Byte) : (setError c d s).suspect = s.suspect := rfl
@[simp] theorem setError_faultCause (c : ResCode) (d : Byte) : (setError c d s).faultCause = s.faultCause := rfl
@[simp] theorem setError_host (c : ResCode) (d : Byte) : (setError c d s).host = s.host := rfl
@[simp] theorem setError_script (c : ResCode) (d : Byte) : (setError c d s).script = s.script := rfl
@[simp] theorem setError_issued (c : ResCode) (d : Byte) : (setError c d s).issued = s.issued := rfl
@[simp] theorem setError_powerOn (c : ResCode) (d : Byte) : (setError c d s).powerOn = s.powerOn := rfl
@[simp] theorem setError_extraCategories (c : ResCode) (d : Byte) : (setError c d s).extraCategories = s.extraCategories := rfl

/-! ### `endOk` -/

@[simp] theorem endOk_rxBuf (bs : List Byte) : (endOk bs s).rxBuf = s.rxBuf := rfl
@[simp] theorem endOk_rxCnt (bs : List Byte) : (endOk bs s).rxCnt = s.rxCnt := rfl
@[simp] theorem endOk_seq (bs : List Byte) : (endOk bs s).seq = .idle := rfl
@[simp] theorem endOk_txFrame (bs : List Byte) : (endOk bs s).txFrame = s.txFrame := rfl
@[simp] theorem endOk_txLen (bs : List Byte) : (endOk bs s).txLen = s.txLen := rfl
@[simp] theorem endOk_resCode (bs : List Byte) : (endOk bs s).resCode = .ok := rfl
@[simp] theorem endOk_resDetail (bs : List Byte) : (endOk bs s).resDetail = 0 := rfl
@[simp] theorem endOk_resLen (bs : List Byte) : (endOk bs s).resLen = bs.length := rfl
@[simp] theorem endOk_resData (bs : List Byte) : (endOk bs s).resData = overlay bs s.resData := rfl
@[simp] theorem endOk_resClass (bs : List Byte) : (endOk bs s).resClass = s.resClass := rfl
@[simp] theorem endOk_resAddr (bs : List Byte) : (endOk bs s).resAddr = s.resAddr := rfl
@[simp] theorem endOk_resSocket (bs : List Byte) : (endOk bs s).resSocket = s.resSocket := rfl
@[simp] theorem endOk_suspect (bs : List Byte) : (endOk bs s).suspect = s.suspect := rfl
@[simp] theorem endOk_faultCause (bs : List Byte) : (endOk bs s).faultCause = s.faultCause := rfl
@[simp] theorem endOk_host (bs : List Byte) : (endOk bs s).host = s.host := rfl
@[simp] theorem endOk_script (bs : List Byte) : (endOk bs s).script = s.script := rfl
@[simp] theorem endOk_issued (bs : List Byte) : (endOk bs s).issued = s.issued := rfl
@[simp] theorem endOk_powerOn (bs : List Byte) : (endOk bs s).powerOn = s.powerOn := rfl
@[simp] theorem endOk_extraCategories (bs : List Byte) : (endOk bs s).extraCategories = s.extraCategories := rfl

/-! ### `endError` -/

@[simp] theorem endError_rxBuf (c : ResCode) (d : Byte) : (endError c d s).rxBuf = s.rxBuf := rfl
@[simp] theorem endError_rxCnt (c : ResCode) (d : Byte) : (endError c d s).rxCnt = s.rxCnt := rfl
@[simp] theorem endError_seq (c : ResCode) (d : Byte) : (endError c d s).seq = .idle := rfl
@[simp] theorem endError_txFrame (c : ResCode) (d : Byte) : (endError c d s).txFrame = s.txFrame := rfl
@[simp] theorem endError_txLen (c : ResCode) (d : Byte) : (endError c d s).txLen = s.txLen := rfl
@[simp] theorem endError_resCode (c : ResCode) (d : Byte) : (endError c d s).resCode = c := rfl
@[simp] theorem endError_resDetail (c : ResCode) (d : Byte) : (endError c d s).resDetail = d := rfl
@[simp] theorem endError_resLen (c : ResCode) (d : Byte) : (endError c d s).resLen = s.resLen := rfl
@[simp] theorem endError_resData (c : ResCode) (d : Byte) : (endError c d s).resData = s.resData := rfl
@[simp] theorem endError_resClass (c : ResCode) (d : Byte) : (endError c d s).resClass = s.resClass := rfl
@[simp] theorem endError_resAddr (c : ResCode) (d : Byte) : (endError c d s).resAddr = s.resAddr := rfl
@[simp] theorem endError_resSocket (c : ResCode) (d : Byte) : (endError c d s).resSocket = s.resSocket := rfl
@[simp] theorem endError_suspect (c : ResCode) (d : Byte) : (endError c d s).suspect = suspectAfter c s.suspect := rfl
@[simp] theorem endError_faultCause (c : ResCode) (d : Byte) : (endError c d s).faultCause = s.faultCause := rfl
@[simp] theorem endError_host (c : ResCode) (d : Byte) : (endError c d s).host = s.host := rfl
@[simp] theorem endError_script (c : ResCode) (d : Byte) : (endError c d s).script = s.script := rfl
@[simp] theorem endError_issued (c : ResCode) (d : Byte) : (endError c d s).issued = s.issued := rfl
@[simp] theorem endError_powerOn (c : ResCode) (d : Byte) : (endError c d s).powerOn = s.powerOn := rfl
@[simp] theorem endError_extraCategories (c : ResCode) (d : Byte) : (endError c d s).extraCategories = s.extraCategories := rfl

/-! ### `enterFault` -/

@[simp] theorem enterFault_rxBuf (c : FaultCause) (v : Byte) : (enterFault c v s).rxBuf = s.rxBuf := rfl
@[simp] theorem enterFault_rxCnt (c : FaultCause) (v : Byte) : (enterFault c v s).rxCnt = s.rxCnt := rfl
@[simp] theorem enterFault_seq (c : FaultCause) (v : Byte) : (enterFault c v s).seq = .fault := rfl
@[simp] theorem enterFault_txFrame (c : FaultCause) (v : Byte) : (enterFault c v s).txFrame = s.txFrame := rfl
@[simp] theorem enterFault_txLen (c : FaultCause) (v : Byte) : (enterFault c v s).txLen = s.txLen := rfl
@[simp] theorem enterFault_resCode (c : FaultCause) (v : Byte) : (enterFault c v s).resCode = faultResCode c := rfl
@[simp] theorem enterFault_resDetail (c : FaultCause) (v : Byte) : (enterFault c v s).resDetail = v := rfl
@[simp] theorem enterFault_resLen (c : FaultCause) (v : Byte) : (enterFault c v s).resLen = s.resLen := rfl
@[simp] theorem enterFault_resData (c : FaultCause) (v : Byte) : (enterFault c v s).resData = s.resData := rfl
@[simp] theorem enterFault_resClass (c : FaultCause) (v : Byte) : (enterFault c v s).resClass = s.resClass := rfl
@[simp] theorem enterFault_resAddr (c : FaultCause) (v : Byte) : (enterFault c v s).resAddr = s.resAddr := rfl
@[simp] theorem enterFault_resSocket (c : FaultCause) (v : Byte) : (enterFault c v s).resSocket = s.resSocket := rfl
@[simp] theorem enterFault_suspect (c : FaultCause) (v : Byte) : (enterFault c v s).suspect = s.suspect := rfl
@[simp] theorem enterFault_faultCause (c : FaultCause) (v : Byte) : (enterFault c v s).faultCause = c := rfl
@[simp] theorem enterFault_host (c : FaultCause) (v : Byte) : (enterFault c v s).host = s.host := rfl
@[simp] theorem enterFault_script (c : FaultCause) (v : Byte) : (enterFault c v s).script = s.script := rfl
@[simp] theorem enterFault_issued (c : FaultCause) (v : Byte) : (enterFault c v s).issued = s.issued := rfl
@[simp] theorem enterFault_powerOn (c : FaultCause) (v : Byte) : (enterFault c v s).powerOn = s.powerOn := rfl
@[simp] theorem enterFault_extraCategories (c : FaultCause) (v : Byte) : (enterFault c v s).extraCategories = s.extraCategories := rfl

/-! ### `latch` -/

@[simp] theorem latch_rxBuf (f : List Byte) : (latch f s).rxBuf = s.rxBuf := rfl
@[simp] theorem latch_rxCnt (f : List Byte) : (latch f s).rxCnt = s.rxCnt := rfl
@[simp] theorem latch_seq (f : List Byte) : (latch f s).seq = s.seq := rfl
@[simp] theorem latch_txFrame (f : List Byte) : (latch f s).txFrame = overlay f s.txFrame := rfl
@[simp] theorem latch_txLen (f : List Byte) : (latch f s).txLen = some f.length := rfl
@[simp] theorem latch_resCode (f : List Byte) : (latch f s).resCode = s.resCode := rfl
@[simp] theorem latch_resDetail (f : List Byte) : (latch f s).resDetail = s.resDetail := rfl
@[simp] theorem latch_resLen (f : List Byte) : (latch f s).resLen = s.resLen := rfl
@[simp] theorem latch_resData (f : List Byte) : (latch f s).resData = s.resData := rfl
@[simp] theorem latch_resClass (f : List Byte) : (latch f s).resClass = s.resClass := rfl
@[simp] theorem latch_resAddr (f : List Byte) : (latch f s).resAddr = s.resAddr := rfl
@[simp] theorem latch_resSocket (f : List Byte) : (latch f s).resSocket = s.resSocket := rfl
@[simp] theorem latch_suspect (f : List Byte) : (latch f s).suspect = s.suspect := rfl
@[simp] theorem latch_faultCause (f : List Byte) : (latch f s).faultCause = s.faultCause := rfl
@[simp] theorem latch_host (f : List Byte) : (latch f s).host = s.host := rfl
@[simp] theorem latch_script (f : List Byte) : (latch f s).script = s.script := rfl
@[simp] theorem latch_issued (f : List Byte) : (latch f s).issued = s.issued := rfl
@[simp] theorem latch_powerOn (f : List Byte) : (latch f s).powerOn = s.powerOn := rfl
@[simp] theorem latch_extraCategories (f : List Byte) : (latch f s).extraCategories = s.extraCategories := rfl

/-! ### `transacted` -/

@[simp] theorem transacted_rxBuf (t : ChanTxn) (r : List ChanAnswer) : (transacted t r s).rxBuf = s.rxBuf := rfl
@[simp] theorem transacted_rxCnt (t : ChanTxn) (r : List ChanAnswer) : (transacted t r s).rxCnt = s.rxCnt := rfl
@[simp] theorem transacted_seq (t : ChanTxn) (r : List ChanAnswer) : (transacted t r s).seq = s.seq := rfl
@[simp] theorem transacted_txFrame (t : ChanTxn) (r : List ChanAnswer) : (transacted t r s).txFrame = s.txFrame := rfl
@[simp] theorem transacted_txLen (t : ChanTxn) (r : List ChanAnswer) : (transacted t r s).txLen = s.txLen := rfl
@[simp] theorem transacted_resCode (t : ChanTxn) (r : List ChanAnswer) : (transacted t r s).resCode = s.resCode := rfl
@[simp] theorem transacted_resDetail (t : ChanTxn) (r : List ChanAnswer) : (transacted t r s).resDetail = s.resDetail := rfl
@[simp] theorem transacted_resLen (t : ChanTxn) (r : List ChanAnswer) : (transacted t r s).resLen = s.resLen := rfl
@[simp] theorem transacted_resData (t : ChanTxn) (r : List ChanAnswer) : (transacted t r s).resData = s.resData := rfl
@[simp] theorem transacted_resClass (t : ChanTxn) (r : List ChanAnswer) : (transacted t r s).resClass = s.resClass := rfl
@[simp] theorem transacted_resAddr (t : ChanTxn) (r : List ChanAnswer) : (transacted t r s).resAddr = s.resAddr := rfl
@[simp] theorem transacted_resSocket (t : ChanTxn) (r : List ChanAnswer) : (transacted t r s).resSocket = s.resSocket := rfl
@[simp] theorem transacted_suspect (t : ChanTxn) (r : List ChanAnswer) : (transacted t r s).suspect = s.suspect := rfl
@[simp] theorem transacted_faultCause (t : ChanTxn) (r : List ChanAnswer) : (transacted t r s).faultCause = s.faultCause := rfl
@[simp] theorem transacted_host (t : ChanTxn) (r : List ChanAnswer) : (transacted t r s).host = s.host := rfl
@[simp] theorem transacted_script (t : ChanTxn) (r : List ChanAnswer) : (transacted t r s).script = r := rfl
@[simp] theorem transacted_issued (t : ChanTxn) (r : List ChanAnswer) : (transacted t r s).issued = s.issued ++ [t] := rfl
@[simp] theorem transacted_powerOn (t : ChanTxn) (r : List ChanAnswer) : (transacted t r s).powerOn = s.powerOn := rfl
@[simp] theorem transacted_extraCategories (t : ChanTxn) (r : List ChanAnswer) : (transacted t r s).extraCategories = s.extraCategories := rfl

/-! ### `parsed` -/

@[simp] theorem parsed_rxBuf (f : List Byte) (c : ResClass) (p : Option (List Byte)) (d : Byte) : (parsed f c p d s).rxBuf = s.rxBuf := rfl
@[simp] theorem parsed_rxCnt (f : List Byte) (c : ResClass) (p : Option (List Byte)) (d : Byte) : (parsed f c p d s).rxCnt = s.rxCnt := rfl
@[simp] theorem parsed_seq (f : List Byte) (c : ResClass) (p : Option (List Byte)) (d : Byte) : (parsed f c p d s).seq = s.seq := rfl
@[simp] theorem parsed_txFrame (f : List Byte) (c : ResClass) (p : Option (List Byte)) (d : Byte) : (parsed f c p d s).txFrame = s.txFrame := rfl
@[simp] theorem parsed_txLen (f : List Byte) (c : ResClass) (p : Option (List Byte)) (d : Byte) : (parsed f c p d s).txLen = s.txLen := rfl
@[simp] theorem parsed_resCode (f : List Byte) (c : ResClass) (p : Option (List Byte)) (d : Byte) : (parsed f c p d s).resCode = .ok := rfl
@[simp] theorem parsed_resDetail (f : List Byte) (c : ResClass) (p : Option (List Byte)) (d : Byte) : (parsed f c p d s).resDetail = d := rfl
@[simp] theorem parsed_resLen (f : List Byte) (c : ResClass) (p : Option (List Byte)) (d : Byte) : (parsed f c p d s).resLen = (p.getD []).length := rfl
@[simp] theorem parsed_resData (f : List Byte) (c : ResClass) (p : Option (List Byte)) (d : Byte) : (parsed f c p d s).resData = overlay (p.getD []) s.resData := rfl
@[simp] theorem parsed_resClass (f : List Byte) (c : ResClass) (p : Option (List Byte)) (d : Byte) : (parsed f c p d s).resClass = c := rfl
@[simp] theorem parsed_resAddr (f : List Byte) (c : ResClass) (p : Option (List Byte)) (d : Byte) : (parsed f c p d s).resAddr = some (hi4 (f.getD 0 0)) := rfl
@[simp] theorem parsed_resSocket (f : List Byte) (c : ResClass) (p : Option (List Byte)) (d : Byte) : (parsed f c p d s).resSocket = some (socketOf f) := rfl
@[simp] theorem parsed_suspect (f : List Byte) (c : ResClass) (p : Option (List Byte)) (d : Byte) : (parsed f c p d s).suspect = s.suspect := rfl
@[simp] theorem parsed_faultCause (f : List Byte) (c : ResClass) (p : Option (List Byte)) (d : Byte) : (parsed f c p d s).faultCause = s.faultCause := rfl
@[simp] theorem parsed_host (f : List Byte) (c : ResClass) (p : Option (List Byte)) (d : Byte) : (parsed f c p d s).host = s.host := rfl
@[simp] theorem parsed_script (f : List Byte) (c : ResClass) (p : Option (List Byte)) (d : Byte) : (parsed f c p d s).script = s.script := rfl
@[simp] theorem parsed_issued (f : List Byte) (c : ResClass) (p : Option (List Byte)) (d : Byte) : (parsed f c p d s).issued = s.issued := rfl
@[simp] theorem parsed_powerOn (f : List Byte) (c : ResClass) (p : Option (List Byte)) (d : Byte) : (parsed f c p d s).powerOn = s.powerOn := rfl
@[simp] theorem parsed_extraCategories (f : List Byte) (c : ResClass) (p : Option (List Byte)) (d : Byte) : (parsed f c p d s).extraCategories = s.extraCategories := rfl

/-! ### `faulted` -/

@[simp] theorem faulted_rxBuf : (faulted s).rxBuf = s.rxBuf := rfl
@[simp] theorem faulted_rxCnt : (faulted s).rxCnt = s.rxCnt := rfl
@[simp] theorem faulted_seq : (faulted s).seq = s.seq := rfl
@[simp] theorem faulted_txFrame : (faulted s).txFrame = s.txFrame := rfl
@[simp] theorem faulted_txLen : (faulted s).txLen = s.txLen := rfl
@[simp] theorem faulted_resCode : (faulted s).resCode = .faulted := rfl
@[simp] theorem faulted_resDetail : (faulted s).resDetail = s.faultCause.code.setWidth 8 := rfl
@[simp] theorem faulted_resLen : (faulted s).resLen = s.resLen := rfl
@[simp] theorem faulted_resData : (faulted s).resData = s.resData := rfl
@[simp] theorem faulted_resClass : (faulted s).resClass = s.resClass := rfl
@[simp] theorem faulted_resAddr : (faulted s).resAddr = s.resAddr := rfl
@[simp] theorem faulted_resSocket : (faulted s).resSocket = s.resSocket := rfl
@[simp] theorem faulted_suspect : (faulted s).suspect = s.suspect := rfl
@[simp] theorem faulted_faultCause : (faulted s).faultCause = s.faultCause := rfl
@[simp] theorem faulted_host : (faulted s).host = s.host := rfl
@[simp] theorem faulted_script : (faulted s).script = s.script := rfl
@[simp] theorem faulted_issued : (faulted s).issued = s.issued := rfl
@[simp] theorem faulted_powerOn : (faulted s).powerOn = s.powerOn := rfl
@[simp] theorem faulted_extraCategories : (faulted s).extraCategories = s.extraCategories := rfl

/-! ### `illegalOp` -/

@[simp] theorem illegalOp_rxBuf (op : Byte) : (illegalOp op s).rxBuf = s.rxBuf := rfl
@[simp] theorem illegalOp_rxCnt (op : Byte) : (illegalOp op s).rxCnt = s.rxCnt := rfl
@[simp] theorem illegalOp_seq (op : Byte) : (illegalOp op s).seq = s.seq := rfl
@[simp] theorem illegalOp_txFrame (op : Byte) : (illegalOp op s).txFrame = s.txFrame := rfl
@[simp] theorem illegalOp_txLen (op : Byte) : (illegalOp op s).txLen = s.txLen := rfl
@[simp] theorem illegalOp_resCode (op : Byte) : (illegalOp op s).resCode = .illegalOp := rfl
@[simp] theorem illegalOp_resDetail (op : Byte) : (illegalOp op s).resDetail = op := rfl
@[simp] theorem illegalOp_resLen (op : Byte) : (illegalOp op s).resLen = s.resLen := rfl
@[simp] theorem illegalOp_resData (op : Byte) : (illegalOp op s).resData = s.resData := rfl
@[simp] theorem illegalOp_resClass (op : Byte) : (illegalOp op s).resClass = s.resClass := rfl
@[simp] theorem illegalOp_resAddr (op : Byte) : (illegalOp op s).resAddr = s.resAddr := rfl
@[simp] theorem illegalOp_resSocket (op : Byte) : (illegalOp op s).resSocket = s.resSocket := rfl
@[simp] theorem illegalOp_suspect (op : Byte) : (illegalOp op s).suspect = s.suspect := rfl
@[simp] theorem illegalOp_faultCause (op : Byte) : (illegalOp op s).faultCause = s.faultCause := rfl
@[simp] theorem illegalOp_host (op : Byte) : (illegalOp op s).host = s.host := rfl
@[simp] theorem illegalOp_script (op : Byte) : (illegalOp op s).script = s.script := rfl
@[simp] theorem illegalOp_issued (op : Byte) : (illegalOp op s).issued = s.issued := rfl
@[simp] theorem illegalOp_powerOn (op : Byte) : (illegalOp op s).powerOn = s.powerOn := rfl
@[simp] theorem illegalOp_extraCategories (op : Byte) : (illegalOp op s).extraCategories = s.extraCategories := rfl

/-! ### `resetBlock` -/

@[simp] theorem resetBlock_rxBuf : (resetBlock s).rxBuf = noCells := rfl
@[simp] theorem resetBlock_rxCnt : (resetBlock s).rxCnt = 0 := rfl
@[simp] theorem resetBlock_seq : (resetBlock s).seq = .idle := rfl
@[simp] theorem resetBlock_txFrame : (resetBlock s).txFrame = noCells := rfl
@[simp] theorem resetBlock_txLen : (resetBlock s).txLen = none := rfl
@[simp] theorem resetBlock_resCode : (resetBlock s).resCode = .none := rfl
@[simp] theorem resetBlock_resDetail : (resetBlock s).resDetail = 0 := rfl
@[simp] theorem resetBlock_resLen : (resetBlock s).resLen = 0 := rfl
@[simp] theorem resetBlock_resData : (resetBlock s).resData = noCells := rfl
@[simp] theorem resetBlock_resClass : (resetBlock s).resClass = .noValue := rfl
@[simp] theorem resetBlock_resAddr : (resetBlock s).resAddr = none := rfl
@[simp] theorem resetBlock_resSocket : (resetBlock s).resSocket = none := rfl
@[simp] theorem resetBlock_suspect : (resetBlock s).suspect = false := rfl
@[simp] theorem resetBlock_faultCause : (resetBlock s).faultCause = .none := rfl
@[simp] theorem resetBlock_host : (resetBlock s).host = s.host := rfl
@[simp] theorem resetBlock_script : (resetBlock s).script = s.script := rfl
@[simp] theorem resetBlock_issued : (resetBlock s).issued = s.issued := rfl
@[simp] theorem resetBlock_powerOn : (resetBlock s).powerOn = s.powerOn := rfl
@[simp] theorem resetBlock_extraCategories : (resetBlock s).extraCategories = s.extraCategories := rfl

/-! ### `powerOnReset` -/

@[simp] theorem powerOnReset_rxBuf : (powerOnReset s).rxBuf = noCells := rfl
@[simp] theorem powerOnReset_rxCnt : (powerOnReset s).rxCnt = 0 := rfl
@[simp] theorem powerOnReset_seq : (powerOnReset s).seq = .idle := rfl
@[simp] theorem powerOnReset_txFrame : (powerOnReset s).txFrame = noCells := rfl
@[simp] theorem powerOnReset_txLen : (powerOnReset s).txLen = none := rfl
@[simp] theorem powerOnReset_resCode : (powerOnReset s).resCode = .none := rfl
@[simp] theorem powerOnReset_resDetail : (powerOnReset s).resDetail = 0 := rfl
@[simp] theorem powerOnReset_resLen : (powerOnReset s).resLen = 0 := rfl
@[simp] theorem powerOnReset_resData : (powerOnReset s).resData = noCells := rfl
@[simp] theorem powerOnReset_resClass : (powerOnReset s).resClass = .noValue := rfl
@[simp] theorem powerOnReset_resAddr : (powerOnReset s).resAddr = none := rfl
@[simp] theorem powerOnReset_resSocket : (powerOnReset s).resSocket = none := rfl
@[simp] theorem powerOnReset_suspect : (powerOnReset s).suspect = false := rfl
@[simp] theorem powerOnReset_faultCause : (powerOnReset s).faultCause = .none := rfl
@[simp] theorem powerOnReset_host : (powerOnReset s).host = s.host := rfl
@[simp] theorem powerOnReset_script : (powerOnReset s).script = s.script := rfl
@[simp] theorem powerOnReset_issued : (powerOnReset s).issued = s.issued := rfl
@[simp] theorem powerOnReset_powerOn : (powerOnReset s).powerOn = false := rfl
@[simp] theorem powerOnReset_extraCategories : (powerOnReset s).extraCategories = s.extraCategories := rfl

end Sys2Proof.Machine
end

