-- ==== Sys2Proof/Laws/Cells.lean ====
section
/-! SUPPORT. The cells and the receive buffer: a read after a write gives what was written, every buffer operation keeps
the buffer's one form, and the terminator scan finds the first terminator. -/

namespace Sys2Proof.Machine

/-! ## Cells -/

theorem readCells_map_some (bs : List Byte) (rest : List (Option Byte)) :
    readCells bs.length (bs.map some ++ rest) = some bs := by
  induction bs with
  | nil => rfl
  | cons b bs ih => simp [readCells, ih]

/-- Reading back what an overlay wrote. -/
@[simp] theorem readCells_overlay (bs : List Byte) (cells : List (Option Byte)) :
    readCells bs.length (overlay bs cells) = some bs := readCells_map_some bs _

/-- An overlay that fits keeps the register's size. -/
theorem overlay_length (bs : List Byte) (cells : List (Option Byte)) (h : bs.length ≤ cells.length) :
    (overlay bs cells).length = cells.length := by
  simp [overlay]; omega

/-- An overlay leaves the cells past it alone. -/
theorem overlay_getElem?_of_le (bs : List Byte) (cells : List (Option Byte)) (i : Nat) (h : bs.length ≤ i) :
    (overlay bs cells)[i]? = cells[i]? := by
  simp only [overlay]
  rw [List.getElem?_append_right (by simpa using h), List.getElem?_drop]
  congr 1
  simp only [List.length_map]
  omega

theorem cellsOf_length (bs : List Byte) (h : bs.length ≤ Config.bufCap) : (cellsOf bs).length = Config.bufCap := by
  simp [cellsOf]; omega

/-! ## The held bytes -/

/-- A buffer in its form reads as the bytes it holds. -/
theorem held_of_holds {s : State} {bs : List Byte} (h : holds s bs) : held s = some bs := by
  obtain ⟨-, hb, hc⟩ := h
  simp [held, hb, hc, cellsOf, readCells_map_some]

/-- The held bytes are determined. -/
theorem holds_unique {s : State} {a b : List Byte} (ha : holds s a) (hb : holds s b) : a = b := by
  have := held_of_holds ha
  rw [held_of_holds hb] at this
  exact (Option.some.inj this).symm

/-- Two states with the same buffer hold the same bytes. -/
theorem holds_congr {s t : State} {bs : List Byte} (h : holds s bs) (hb : t.rxBuf = s.rxBuf) (hc : t.rxCnt = s.rxCnt) :
    holds t bs := ⟨h.1, hb.trans h.2.1, hc.trans h.2.2⟩

theorem holds_cellsOf {s : State} {bs : List Byte} (hl : bs.length ≤ Config.bufCap) :
    holds { s with rxBuf := cellsOf bs, rxCnt := bs.length } bs := ⟨hl, rfl, rfl⟩

/-- Writing the next cell of the buffer's form. -/
theorem cellsOf_set (bs : List Byte) (b : Byte) (h : bs.length < Config.bufCap) :
    (cellsOf bs).set bs.length (some b) = cellsOf (bs ++ [b]) := by
  have hk : Config.bufCap - bs.length = (Config.bufCap - (bs.length + 1)) + 1 := by omega
  simp only [cellsOf, List.map_append, List.map_cons, List.map_nil, List.length_append, List.length_cons,
    List.length_nil, List.append_assoc, Nat.zero_add]
  rw [List.set_append_right _ _ (by simp), hk, List.replicate_succ]
  simp

/-- `BufRead` after `Append`-style writes: the cell below the count reads as its byte (R55). -/
theorem bufRead_of_holds {s : State} {bs : List Byte} (h : holds s bs) (i : Nat) : bufRead i s = bs[i]? := by
  obtain ⟨-, hb, hc⟩ := h
  simp only [bufRead, hb, hc, cellsOf]
  by_cases hi : i < bs.length
  · simp [hi, List.getElem?_append_left]
  · simp [hi]

/-- `Append` writes the buffer and its count only. -/
theorem append_frame (bs : List Byte) : ∀ s : State,
    append bs s = { s with rxBuf := (append bs s).rxBuf, rxCnt := (append bs s).rxCnt } := by
  induction bs with
  | nil => intro s; rfl
  | cons b bs ih => intro s; rw [append, ih]; rfl

@[simp] theorem append_seq (bs : List Byte) (s : State) : (append bs s).seq = s.seq := by
  rw [append_frame]

@[simp] theorem append_txFrame (bs : List Byte) (s : State) : (append bs s).txFrame = s.txFrame := by
  rw [append_frame]

@[simp] theorem append_txLen (bs : List Byte) (s : State) : (append bs s).txLen = s.txLen := by
  rw [append_frame]

@[simp] theorem append_resCode (bs : List Byte) (s : State) : (append bs s).resCode = s.resCode := by
  rw [append_frame]

@[simp] theorem append_resDetail (bs : List Byte) (s : State) : (append bs s).resDetail = s.resDetail := by
  rw [append_frame]

@[simp] theorem append_resLen (bs : List Byte) (s : State) : (append bs s).resLen = s.resLen := by
  rw [append_frame]

@[simp] theorem append_resData (bs : List Byte) (s : State) : (append bs s).resData = s.resData := by
  rw [append_frame]

@[simp] theorem append_resClass (bs : List Byte) (s : State) : (append bs s).resClass = s.resClass := by
  rw [append_frame]

@[simp] theorem append_resAddr (bs : List Byte) (s : State) : (append bs s).resAddr = s.resAddr := by
  rw [append_frame]

@[simp] theorem append_resSocket (bs : List Byte) (s : State) : (append bs s).resSocket = s.resSocket := by
  rw [append_frame]

@[simp] theorem append_suspect (bs : List Byte) (s : State) : (append bs s).suspect = s.suspect := by
  rw [append_frame]

@[simp] theorem append_faultCause (bs : List Byte) (s : State) : (append bs s).faultCause = s.faultCause := by
  rw [append_frame]

@[simp] theorem append_host (bs : List Byte) (s : State) : (append bs s).host = s.host := by
  rw [append_frame]

@[simp] theorem append_script (bs : List Byte) (s : State) : (append bs s).script = s.script := by
  rw [append_frame]

@[simp] theorem append_issued (bs : List Byte) (s : State) : (append bs s).issued = s.issued := by
  rw [append_frame]

@[simp] theorem append_powerOn (bs : List Byte) (s : State) : (append bs s).powerOn = s.powerOn := by
  rw [append_frame]

@[simp] theorem append_extraCategories (bs : List Byte) (s : State) :
    (append bs s).extraCategories = s.extraCategories := by
  rw [append_frame]

/-- `Append` raises the count by the number of bytes (R145). -/
@[simp] theorem append_rxCnt (bs : List Byte) : ∀ s : State, (append bs s).rxCnt = s.rxCnt + bs.length := by
  induction bs with
  | nil => intro s; rfl
  | cons b bs ih => intro s; rw [append, ih]; simp; omega

/-- What `Append` does (R145): the bytes follow the held ones, and nothing else changes. -/
theorem append_eq (bs : List Byte) : ∀ (s : State) (hs : List Byte), holds s hs →
    hs.length + bs.length ≤ Config.bufCap →
    append bs s = { s with rxBuf := cellsOf (hs ++ bs), rxCnt := (hs ++ bs).length } := by
  induction bs with
  | nil => intro s hs ⟨_, hb, hc⟩ _; simp [append, ← hb, ← hc]
  | cons b bs ih =>
    intro s hs ⟨h1, hb, hc⟩ hl
    simp only [List.length_cons] at hl
    have hw : holds { bufWrite s.rxCnt b s with rxCnt := s.rxCnt + 1 } (hs ++ [b]) := by
      refine ⟨by simp; omega, ?_, by simp [hc]⟩
      simp only [bufWrite, hb, hc]
      exact cellsOf_set hs b (by omega)
    rw [append, ih _ _ hw (by simp; omega)]
    simp [bufWrite]

/-- `Append` keeps the buffer's form (R21). -/
theorem append_holds {s : State} {hs : List Byte} (bs : List Byte) (h : holds s hs)
    (hl : hs.length + bs.length ≤ Config.bufCap) : holds (append bs s) (hs ++ bs) := by
  rw [append_eq bs s hs h hl]
  exact holds_cellsOf (by simpa using hl)

/-- What `Shift` does (R56): the first `k` held bytes go, and nothing else changes. -/
theorem shift_eq {s : State} {bs : List Byte} (k : Nat) (h : holds s bs) :
    shift k s = { s with rxBuf := cellsOf (bs.drop k), rxCnt := (bs.drop k).length } := by
  obtain ⟨_, hb, hc⟩ := h
  have ht : s.rxBuf.take s.rxCnt = bs.map some := by
    rw [hb, hc, cellsOf]
    simp
  simp only [shift, ht]
  simp [hc, cellsOf]

/-- `Shift` keeps the buffer's form (R21). -/
theorem shift_holds {s : State} {bs : List Byte} (k : Nat) (h : holds s bs) : holds (shift k s) (bs.drop k) := by
  rw [shift_eq k h]
  exact holds_cellsOf (by simp only [List.length_drop]; have := h.1; omega)

/-! ## The terminator -/

/-- No terminator is found exactly when none is held (R141). -/
theorem firstTerm_eq_none {bs : List Byte} : firstTerm bs = none ↔ Config.term ∉ bs := by
  induction bs with
  | nil => simp [firstTerm]
  | cons b bs ih =>
    by_cases hb : b = Config.term
    · simp [firstTerm, hb]
    · simp [firstTerm, hb, ih, Ne.symm hb]

/-- The first terminator ends the first frame (R141, R142). -/
theorem firstTerm_append {g : List Byte} (rest : List Byte) (h : Config.term ∉ g) :
    firstTerm (g ++ Config.term :: rest) = some g.length := by
  induction g with
  | nil => simp [firstTerm]
  | cons b g ih =>
    simp only [List.mem_cons, not_or] at h
    simp [firstTerm, Ne.symm h.1, ih h.2]

/-- Where a terminator is found, the held bytes are a frame and a rest (R142). -/
theorem firstTerm_some {bs : List Byte} {p : Nat} (h : firstTerm bs = some p) :
    ∃ g rest, bs = g ++ Config.term :: rest ∧ Config.term ∉ g ∧ g.length = p := by
  induction bs generalizing p with
  | nil => simp [firstTerm] at h
  | cons b bs ih =>
    by_cases hb : b = Config.term
    · refine ⟨[], bs, by simp [hb], by simp, ?_⟩
      simpa [firstTerm, hb] using h
    · simp only [firstTerm, hb, if_false, Option.map_eq_some_iff] at h
      obtain ⟨q, hq, rfl⟩ := h
      obtain ⟨g, rest, rfl, hg, rfl⟩ := ih hq
      exact ⟨b :: g, rest, rfl, by simp [hg, Ne.symm hb], rfl⟩

end Sys2Proof.Machine
end

