-- ==== Sys2Proof/Laws/Ops.lean ====
section
/-! SUPPORT. What each shared operation can do, said once: a proof cites these and does not unfold the operation. -/

namespace Sys2Proof.Machine

/-! ## Issue and build (R202, R203, R110) -/

theorem issue_idle {s : State} (run : Out) (h : s.seq = .idle) : issue s run = run := by simp [issue, h]

theorem issue_fault {s : State} (run : Out) (h : s.seq = .fault) : issue s run = .next (faulted s) := by
  simp [issue, h]

theorem issue_busy {s : State} (run : Out) (h : s.seq = .tx ∨ s.seq = .rx1 ∨ s.seq = .rx2 ∨ s.seq = .rxf) :
    issue s run = .refused .operationInProgress := by
  rcases h with h | h | h | h <;> simp [issue, h]

/-- An issued operation that answers a next state ran in IDLE, or answered FAULTED. -/
theorem issue_next {s t : State} {run : Out} (h : issue s run = .next t) :
    (s.seq = .idle ∧ run = .next t) ∨ (s.seq = .fault ∧ t = faulted s) := by
  cases hq : s.seq <;> simp_all [issue]

theorem admitted_iff (c : Byte) (s : State) : admitted c s = true ↔ c ∈ s.categoryCodes := by
  simp [admitted]

/-- The two codes the spec names are in every machine's `CATEGORY_CODES` (R74). -/
theorem mem_categoryCodes {c : Byte} (s : State) (h : c = 0x04 ∨ c = 0x06) : c ∈ s.categoryCodes := by
  rcases h with rfl | rfl <;> simp [State.categoryCodes, Config.defaultCategoryCodes]

/-- The build phase goes on with the frame when the operands meet its three conditions (R110). -/
theorem buildPhase_ok {q : HostReq} {s : State} (run : List Byte → Out) (hc : q.cat ∈ s.categoryCodes)
    (hp : q.plen.toNat ≤ 12) (ha : q.addr.toNat ≤ 7) : buildPhase q s run = run (requestFrame q) := by
  have h1 := (admitted_iff q.cat s).2 hc
  have h2 : ¬ 12 < q.plen.toNat := by omega
  have h3 : ¬ 7 < q.addr.toNat := by omega
  simp [buildPhase, h1, h2, h3, Config.maxPayload]

/-- The build phase refuses a category that is not admitted (R74). -/
theorem buildPhase_refused {q : HostReq} {s : State} (run : List Byte → Out)
    (hc : q.cat ∉ s.categoryCodes) : buildPhase q s run = .refused .categoryNotAdmitted := by
  have : admitted q.cat s = false := by
    rwa [Bool.eq_false_iff, ne_eq, admitted_iff]
  simp [buildPhase, this]

/-- The build phase faults on a payload that is too long (R110, R216). -/
theorem buildPhase_payload {q : HostReq} {s : State} (run : List Byte → Out) (hc : q.cat ∈ s.categoryCodes)
    (hp : 12 < q.plen.toNat) : buildPhase q s run = .next (enterFault .payloadTooLong q.plen s) := by
  have h1 := (admitted_iff q.cat s).2 hc
  simp [buildPhase, h1, hp, Config.maxPayload]

/-- The build phase faults on an address out of range (R110, R216). -/
theorem buildPhase_address {q : HostReq} {s : State} (run : List Byte → Out) (hc : q.cat ∈ s.categoryCodes)
    (hp : q.plen.toNat ≤ 12) (ha : 7 < q.addr.toNat) :
    buildPhase q s run = .next (enterFault .addressOutOfRange q.addr s) := by
  have h1 := (admitted_iff q.cat s).2 hc
  have h2 : ¬ 12 < q.plen.toNat := by omega
  simp [buildPhase, h1, h2, ha, Config.maxPayload]

/-- A build phase that answers a next state entered FAULT or went on with the frame. -/
theorem buildPhase_next {q : HostReq} {s t : State} {run : List Byte → Out} (h : buildPhase q s run = .next t) :
    (∃ c v, c ≠ .none ∧ detailInTable s.resClass v (faultResCode c) ∧ t = enterFault c v s) ∨
      (q.cat ∈ s.categoryCodes ∧ q.plen.toNat ≤ 12 ∧ q.addr.toNat ≤ 7 ∧ run (requestFrame q) = .next t) := by
  unfold buildPhase at h
  split at h
  · cases h
  next hc =>
    split at h
    next hp => cases h; exact .inl ⟨.payloadTooLong, _, by simp, hp, rfl⟩
    next hp =>
      split at h
      next ha => cases h; exact .inl ⟨.addressOutOfRange, _, by simp, ha, rfl⟩
      next ha =>
        refine .inr ⟨(admitted_iff _ _).1 (by simpa using hc), ?_, by omega, h⟩
        simpa [Config.maxPayload] using hp

/-- A request frame is 4 bytes longer than its payload (R75). -/
@[simp] theorem enc_length (a : BitVec 3) (k : Kind) (c : Byte) (p : List Byte) :
    (enc a k c p).length = 4 + p.length := by
  simp [enc]; omega

theorem payloadRead_length {q : HostReq} (hw : q.pdata.length = 12) (hp : q.plen.toNat ≤ 12) :
    (payloadRead q).length = q.plen.toNat := by
  simp [payloadRead, hw, hp]

/-- The address byte of a request: bits 2:0 of byte 0 (R72). -/
theorem header_of_addr {a : Byte} (h : a.toNat ≤ 7) :
    (0x80 ||| (a.setWidth 3 : BitVec 3).setWidth 8 : Byte) = 0x80 ||| a := by
  congr 1
  apply BitVec.eq_of_toNat_eq
  simp only [BitVec.toNat_setWidth]
  omega

/-! ## The channel (R172, R141 to R149) -/

/-- What a write can come to. -/
theorem chanWrite_next {f : List Byte} {s t : State} (h : chanWrite f s = .next t) :
    (∃ rest, s.script = .wrote f.length :: rest ∧ t = { transacted (.write f) rest s with seq := .rx1 }) ∨
    (∃ a rest d, s.script = a :: rest ∧ answerBytes a = [] ∧
      t = endError .transport d (transacted (.write f) rest s)) := by
  unfold chanWrite at h
  split at h
  · cases h
  next n rest hs =>
    simp only at h
    split at h
    next hn =>
      cases h
      exact .inl ⟨rest, by rw [hs, hn], rfl⟩
    · split at h
      · cases h; exact .inr ⟨_, rest, _, hs, rfl, rfl⟩
      · cases h
  next e rest hs => cases h; exact .inr ⟨_, rest, _, hs, rfl, rfl⟩
  all_goals cases h

/-- What a read can come to. -/
theorem chanRead_next {s t : State} (h : chanRead s = .next t) :
    (s.script = [] ∧ t = s) ∨
    (∃ rest, s.script = .interrupted :: rest ∧ t = transacted (.read (Config.bufCap - s.rxCnt)) rest s) ∨
    (∃ bs rest, s.script = .bytes bs :: rest ∧ 1 ≤ bs.length ∧ bs.length ≤ Config.bufCap - s.rxCnt ∧
      t = append bs (transacted (.read (Config.bufCap - s.rxCnt)) rest s)) ∨
    (∃ a rest d, s.script = a :: rest ∧ answerBytes a = [] ∧
      t = receiveFail .transport d (transacted (.read (Config.bufCap - s.rxCnt)) rest s)) := by
  unfold chanRead at h
  simp only at h
  split at h
  · cases h; exact .inl ⟨by assumption, rfl⟩
  next rest hs => cases h; exact .inr (.inl ⟨rest, hs, rfl⟩)
  next bs rest hs =>
    split at h
    next hb => cases h; exact .inr (.inr (.inl ⟨bs, rest, hs, hb.1, hb.2, rfl⟩))
    · cases h
  next rest hs => cases h; exact .inr (.inr (.inr ⟨_, rest, _, hs, rfl, rfl⟩))
  next e rest hs => cases h; exact .inr (.inr (.inr ⟨_, rest, _, hs, rfl, rfl⟩))
  all_goals cases h

/-- A channel transaction does not touch the receive buffer. -/
theorem transacted_holds {s : State} {bs : List Byte} (t : ChanTxn) (r : List ChanAnswer) (h : holds s bs) :
    holds (transacted t r s) bs := holds_congr h rfl rfl

/-- A failed receive step in RXF does not touch `suspect` (R152). -/
theorem receiveFail_rxf {s : State} (c : ResCode) (d : Byte) (h : s.seq = .rxf) :
    receiveFail c d s = { setError c d s with seq := .idle } := by simp [receiveFail, h]

/-- A failed receive step in an exchange is the exchange's error end (R173, R175). -/
theorem receiveFail_exchange {s : State} (c : ResCode) (d : Byte) (h : s.seq = .rx1 ∨ s.seq = .rx2) :
    receiveFail c d s = endError c d s := by
  rcases h with h | h <;> simp [receiveFail, h]

/-! ## The NextFrame loop (R141) -/

/-- With a terminator held, a turn extracts the first frame (R142). -/
theorem nextFrameTurn_frame {s : State} {g rest : List Byte} (h : holds s (g ++ Config.term :: rest))
    (hg : Config.term ∉ g) :
    nextFrameTurn s = .frame (g ++ [Config.term])
      { s with rxBuf := cellsOf rest, rxCnt := rest.length } := by
  have hd : (g ++ Config.term :: rest).drop (g.length + 1) = rest := by
    simp [List.drop_append]
  have ht : (g ++ Config.term :: rest).take (g.length + 1) = g ++ [Config.term] := by
    simp [List.take_append]
  simp only [nextFrameTurn, held_of_holds h, firstTerm_append rest hg, shift_eq _ h, hd, ht]

/-- With no terminator held and the buffer full, a turn fails (R147). -/
theorem nextFrameTurn_full {s : State} {h : List Byte} (hh : holds s h) (hn : Config.term ∉ h)
    (hf : h.length = Config.bufCap) :
    nextFrameTurn s = .outcome (.next (receiveFail .resourceBufferFull 0 s)) := by
  simp only [nextFrameTurn, held_of_holds hh, firstTerm_eq_none.2 hn, hh.2.2, hf, if_true]

/-- With no terminator held and room left, a turn reads (R143). -/
theorem nextFrameTurn_read {s : State} {h : List Byte} (hh : holds s h) (hn : Config.term ∉ h)
    (hf : h.length < Config.bufCap) : nextFrameTurn s = .outcome (chanRead s) := by
  have : ¬ h.length = Config.bufCap := by omega
  simp only [nextFrameTurn, held_of_holds hh, firstTerm_eq_none.2 hn, hh.2.2, this, if_false]

/-- Every held content is one of the three cases of a turn. -/
theorem held_cases (h : List Byte) : (∃ g rest, h = g ++ Config.term :: rest ∧ Config.term ∉ g) ∨ Config.term ∉ h := by
  cases hp : firstTerm h with
  | none => exact .inr (firstTerm_eq_none.1 hp)
  | some p =>
    obtain ⟨g, rest, rfl, hg, -⟩ := firstTerm_some hp
    exact .inl ⟨g, rest, rfl, hg⟩

/-- A frame is some bytes without a terminator, and the terminator (R70). -/
theorem isFrame_split {f : List Byte} (h : isFrame f) (rest : List Byte) :
    ∃ g, f = g ++ [Config.term] ∧ Config.term ∉ g ∧ f ++ rest = g ++ Config.term :: rest := by
  obtain ⟨-, g, rfl, hg⟩ := h
  exact ⟨g, rfl, hg, by simp⟩

/-! ## The fetch and the step (R25) -/

theorem step_powerOn {s : State} (h : s.powerOn = true) : step s = .next (powerOnReset s) := by
  simp [step, fetch, h]

/-- At rest the step runs the host's operation. -/
theorem step_host {s : State} {w : HostWord} {rest : List HostWord} {i : Instr} (hp : s.powerOn = false)
    (hq : s.seq = .idle ∨ s.seq = .fault) (hh : s.host = w :: rest) (hd : decodeHostWord w = .ok i) :
    step s = exec i { s with host := rest } := by
  rcases hq with hq | hq <;> simp [step, fetch, hp, hq, fetchHost, hh, fetchDecoded, hd]

/-- At rest with nothing to issue the machine waits (R240). -/
theorem step_wait {s : State} (hp : s.powerOn = false) (hq : s.seq = .idle ∨ s.seq = .fault) (hh : s.host = []) :
    step s = .next s := by
  rcases hq with hq | hq <;> simp [step, fetch, hp, hq, fetchHost, hh]

/-- In TX the step runs the latched request. -/
theorem step_tx {s : State} {f : List Byte} {i : Instr} (hp : s.powerOn = false) (hq : s.seq = .tx)
    (hf : txBytes s = some f) (hd : decode .request f = .ok i) : step s = exec i s := by
  simp [step, fetch, hp, hq, fetchTx, hf, fetchDecoded, hd]

/-- In a receive state the step is a turn of the NextFrame loop. -/
theorem fetch_receiving {s : State} (hp : s.powerOn = false) (hq : s.seq.receiving = true) :
    fetch s = fetchReceive s := by
  cases h : s.seq <;> simp_all [fetch, Seq.receiving]

/-- A step whose turn delivers no frame. -/
theorem step_outcome {s : State} {o : Out} (hp : s.powerOn = false) (hq : s.seq.receiving = true)
    (ht : nextFrameTurn s = .outcome o) : step s = o := by
  simp [step, fetch_receiving hp hq, fetchReceive, ht]

/-- A step that delivers a frame to NEXT_FRAME (R140). -/
theorem step_frame_rxf {s t : State} {f : List Byte} (hp : s.powerOn = false) (hq : s.seq = .rxf)
    (ht : nextFrameTurn s = .frame f t) (htq : t.seq = .rxf) : step s = .next (endOk f t) := by
  simp [step, fetch_receiving hp (by simp [hq, Seq.receiving]), fetchReceive, ht, fetchFrame, htq]

/-- A step that delivers a frame of 1 or 2 bytes to an exchange (R114, R173, R175). -/
theorem step_frame_short {s t : State} {f : List Byte} (hp : s.powerOn = false)
    (hq : s.seq = .rx1 ∨ s.seq = .rx2) (ht : nextFrameTurn s = .frame f t) (htq : t.seq = s.seq)
    (hl : f.length < 3) :
    step s = .next (endError .protoFrameTooShort (BitVec.ofNat 8 f.length) t) := by
  rcases hq with hq | hq <;>
    simp [step, fetch_receiving hp (by simp [hq, Seq.receiving]), fetchReceive, ht, fetchFrame, htq, hq, hl,
      Config.minReply]

/-- A step that delivers a frame of 3 bytes or more to an exchange runs its row (R173, R175). -/
theorem step_frame_reply {s t : State} {f : List Byte} {i : Instr} (hp : s.powerOn = false)
    (hq : s.seq = .rx1 ∨ s.seq = .rx2) (ht : nextFrameTurn s = .frame f t) (htq : t.seq = s.seq)
    (hl : 3 ≤ f.length) (hd : decode .reply f = .ok i) : step s = exec i t := by
  have : ¬ f.length < 3 := by omega
  rcases hq with hq | hq <;>
    simp [step, fetch_receiving hp (by simp [hq, Seq.receiving]), fetchReceive, ht, fetchFrame, htq, hq, this,
      Config.minReply, fetchDecoded, hd]

/-! ## Replies (R173 to R176) -/

theorem onReply_exchange {s : State} (f : List Byte) (k : State → State) (h : s.seq = .rx1 ∨ s.seq = .rx2) :
    onReply f k s = .next (k s) := by
  rcases h with h | h <;> simp [onReply, h]

theorem onReply_rxf {s : State} (f : List Byte) (k : State → State) (h : s.seq = .rxf) :
    onReply f k s = .next (endOk f s) := by simp [onReply, h]

theorem onReply_elsewhere {s : State} (f : List Byte) (k : State → State)
    (h : s.seq = .idle ∨ s.seq = .tx ∨ s.seq = .fault) : onReply f k s = .next s := by
  rcases h with h | h | h <;> simp [onReply, h]

/-- The code a kind is read from is the code it stands for (R81, R82). -/
@[simp] theorem errorCodeOf_errorKindOf (c : Byte) : errorCodeOf (errorKindOf c) = c := by
  unfold errorKindOf
  split
  · simp_all [errorCodeOf]
  · repeat' split
    all_goals simp_all [errorCodeOf]

end Sys2Proof.Machine
end

