-- ==== Sys2Proof/Laws/Codec.lean ====
section
/-! SUPPORT. FC's functions on bytes: nibbles, frames, classification, and what each decoder reads from what its encoder
writes. -/

namespace Sys2Proof.Machine

/-! ## Nibbles (R9, R101) -/

@[simp] theorem hi4_joinNibbles (h l : Nibble) : hi4 (joinNibbles h l) = h := by
  apply BitVec.eq_of_toNat_eq
  have := h.isLt
  have := l.isLt
  simp only [hi4, joinNibbles, BitVec.extractLsb'_toNat, BitVec.toNat_append, Nat.shiftRight_eq_div_pow]
  rw [← Nat.shiftLeft_add_eq_or_of_lt l.isLt, Nat.shiftLeft_eq]
  omega

@[simp] theorem lo4_joinNibbles (h l : Nibble) : lo4 (joinNibbles h l) = l := by
  apply BitVec.eq_of_toNat_eq
  have := h.isLt
  have := l.isLt
  simp only [lo4, joinNibbles, BitVec.extractLsb'_toNat, BitVec.toNat_append, Nat.shiftRight_eq_div_pow]
  rw [← Nat.shiftLeft_add_eq_or_of_lt l.isLt, Nat.shiftLeft_eq]
  omega

@[simp] theorem joinNibbles_hi4_lo4 (b : Byte) : joinNibbles (hi4 b) (lo4 b) = b := by
  apply BitVec.eq_of_toNat_eq
  have := b.isLt
  simp only [hi4, lo4, joinNibbles, BitVec.extractLsb'_toNat, BitVec.toNat_append, Nat.shiftRight_eq_div_pow]
  rw [← Nat.shiftLeft_add_eq_or_of_lt (by omega), Nat.shiftLeft_eq]
  omega

theorem joinNibbles_inj {h l h' l' : Nibble} : joinNibbles h l = joinNibbles h' l' ↔ h = h' ∧ l = l' := by
  constructor
  · intro e
    have h1 := congrArg hi4 e
    have h2 := congrArg lo4 e
    simp only [hi4_joinNibbles, lo4_joinNibbles] at h1 h2
    exact ⟨h1, h2⟩
  · rintro ⟨rfl, rfl⟩; rfl

/-- The terminator is the byte of two nibbles F. -/
theorem joinNibbles_eq_term {h l : Nibble} : joinNibbles h l = Config.term ↔ h = 0xF ∧ l = 0xF := by
  rw [show Config.term = joinNibbles 0xF 0xF by decide, joinNibbles_inj]

/-- A nibble byte decodes to its nibble, and four of them to the value (R101). -/
theorem unNib_joinNibbles (a b c d a' b' c' d' : Nibble) :
    unNib (joinNibbles a' a) (joinNibbles b' b) (joinNibbles c' c) (joinNibbles d' d) = (a ++ b ++ c ++ d : BitVec 16) := by
  simp only [unNib, lo4_joinNibbles]

/-- Splitting a value into nibbles and joining them again. -/
theorem nibbles_join (v : BitVec 16) :
    (v.extractLsb' 12 4 ++ v.extractLsb' 8 4 ++ v.extractLsb' 4 4 ++ v.extractLsb' 0 4 : BitVec 16) = v := by
  rw [BitVec.extractLsb'_append_extractLsb'_eq_extractLsb' (by rfl),
    BitVec.extractLsb'_append_extractLsb'_eq_extractLsb' (by rfl),
    BitVec.extractLsb'_append_extractLsb'_eq_extractLsb' (by rfl)]
  exact BitVec.extractLsb'_eq_self

/-- Decoding `nib(v)` gives `v` (R101). -/
theorem unNib_nib (v : BitVec 16) :
    unNib (joinNibbles 0 (v.extractLsb' 12 4)) (joinNibbles 0 (v.extractLsb' 8 4)) (joinNibbles 0 (v.extractLsb' 4 4))
      (joinNibbles 0 (v.extractLsb' 0 4)) = v := by
  rw [unNib_joinNibbles, nibbles_join]

@[simp] theorem nib_length (v : BitVec 16) : (nib v).length = 4 := rfl

/-- A byte whose high nibble is 0 is its low nibble's byte (R101). -/
theorem joinNibbles_zero_lo4 {b : Byte} (h : hi4 b = 0) : joinNibbles 0 (lo4 b) = b := by
  rw [← h, joinNibbles_hi4_lo4]

/-- The value of four nibbles (R101). -/
theorem unNib_toNat (b0 b1 b2 b3 : Byte) :
    (unNib b0 b1 b2 b3).toNat =
      (lo4 b0).toNat * 4096 + (lo4 b1).toNat * 256 + (lo4 b2).toNat * 16 + (lo4 b3).toNat := by
  simp only [unNib, BitVec.toNat_append]
  rw [← Nat.shiftLeft_add_eq_or_of_lt (lo4 b1).isLt, ← Nat.shiftLeft_add_eq_or_of_lt (lo4 b2).isLt,
    ← Nat.shiftLeft_add_eq_or_of_lt (lo4 b3).isLt]
  simp only [Nat.shiftLeft_eq]
  omega

/-- Encoding what four nibble bytes decode to gives the bytes (R101). -/
theorem nib_unNib {b0 b1 b2 b3 : Byte} (h : allNibbles [b0, b1, b2, b3] = true) :
    nib (unNib b0 b1 b2 b3) = [b0, b1, b2, b3] := by
  simp only [allNibbles, List.all_cons, List.all_nil, Bool.and_true, Bool.and_eq_true, beq_iff_eq] at h
  obtain ⟨h0, h1, h2, h3⟩ := h
  have l0 := (lo4 b0).isLt
  have l1 := (lo4 b1).isLt
  have l2 := (lo4 b2).isLt
  have l3 := (lo4 b3).isLt
  have e0 : (unNib b0 b1 b2 b3).extractLsb' 12 4 = lo4 b0 := by
    apply BitVec.eq_of_toNat_eq
    simp only [BitVec.extractLsb'_toNat, unNib_toNat, Nat.shiftRight_eq_div_pow]
    omega
  have e1 : (unNib b0 b1 b2 b3).extractLsb' 8 4 = lo4 b1 := by
    apply BitVec.eq_of_toNat_eq
    simp only [BitVec.extractLsb'_toNat, unNib_toNat, Nat.shiftRight_eq_div_pow]
    omega
  have e2 : (unNib b0 b1 b2 b3).extractLsb' 4 4 = lo4 b2 := by
    apply BitVec.eq_of_toNat_eq
    simp only [BitVec.extractLsb'_toNat, unNib_toNat, Nat.shiftRight_eq_div_pow]
    omega
  have e3 : (unNib b0 b1 b2 b3).extractLsb' 0 4 = lo4 b3 := by
    apply BitVec.eq_of_toNat_eq
    simp only [BitVec.extractLsb'_toNat, unNib_toNat, Nat.shiftRight_eq_div_pow]
    omega
  simp only [nib, e0, e1, e2, e3, joinNibbles_zero_lo4, h0, h1, h2, h3]

/-- The bytes of `nib(v)` are nibbles (R101). -/
theorem allNibbles_nib (v : BitVec 16) : allNibbles (nib v) = true := by
  simp [allNibbles, nib]

/-! ## Frames -/

/-- Byte 0 of a request (R72): the address comes back, and bits 7:3 are fixed. -/
theorem requestHeader (a : BitVec 3) :
    (0x80 ||| a.setWidth 8 : Byte).setWidth 3 = a ∧ (0x80 ||| a.setWidth 8 : Byte).extractLsb' 3 5 = 0x10 := by
  revert a
  decide

/-- A byte whose bits 7:3 are fixed is the header of its bits 2:0 (R72). -/
theorem header_of_bits {b : Byte} (h : b.extractLsb' 3 5 = 0x10) : (0x80 ||| (b.setWidth 3 : BitVec 3).setWidth 8 : Byte) = b := by
  revert b
  decide

/-- The decoder's split of a request frame reads the fields that `Enc` wrote (R124). -/
theorem splitRequest_enc (a : BitVec 3) (k : Kind) (c : Byte) (p : List Byte) (h : p.length ≤ 12) :
    splitRequest (enc a k c p) = .ok (k, ⟨a, c, p⟩) := by
  obtain ⟨h1, h2⟩ := requestHeader a
  have hl : ¬ 13 < (p ++ [Config.term]).length := by simp; omega
  have hn : p ++ [Config.term] ≠ [] := by simp
  cases k <;>
    simp only [enc, splitRequest, List.cons_append, List.nil_append, hn, hl, if_false, List.getLast?_concat, ne_eq,
      not_true_eq_false, h1, h2, List.dropLast_concat, if_true, Kind.code]
  rfl

/-- What the split accepts is the encoding of the fields it reads. -/
theorem splitRequest_ok {f : List Byte} {k : Kind} {r : Request} (h : splitRequest f = .ok (k, r)) :
    r.payload.length ≤ 12 ∧ f = enc r.addr k r.cat r.payload := by
  unfold splitRequest at h
  split at h
  next b0 b1 cat rest =>
    split at h
    · cases h
    next =>
      split at h
      · cases h
      next hl =>
        split at h
        · cases h
        next ht =>
          split at h
          · cases h
          next hb =>
            have hb' : b0.extractLsb' 3 5 = 0x10 := by simpa using hb
            have ht' : rest.getLast? = some Config.term := by simpa using ht
            have hr : rest = rest.dropLast ++ [Config.term] := (List.dropLast_append_getLast? _ ht').symm
            have hl' : rest.dropLast.length ≤ 12 := by simp; omega
            split at h
            next hk =>
              cases h
              refine ⟨hl', ?_⟩
              simp only [enc, header_of_bits hb', ← hk]
              simpa using hr
            next =>
              split at h
              next hk =>
                cases h
                refine ⟨hl', ?_⟩
                simp only [enc, header_of_bits hb', ← hk]
                simpa using hr
              · cases h
  · cases h

/-- A reply is well-formed when its frame is at most 16 bytes long and has one terminator (R70, R76). -/
theorem replyWf_iff {t : Nibble} {r : Reply} :
    r.wf t = true ↔ r.body.length ≤ 13 ∧ joinNibbles r.addrNibble r.lowNibble ≠ Config.term ∧
      joinNibbles t r.socket ≠ Config.term ∧ Config.term ∉ r.body := by
  rw [Ne, Ne, joinNibbles_eq_term, joinNibbles_eq_term]
  simp only [Reply.wf, Config.maxRplPayload, Bool.and_eq_true, Bool.not_eq_true', and_assoc,
    ← Bool.not_eq_true, beq_iff_eq, List.all_eq_true, bne_iff_ne]
  refine and_congr decide_eq_true_iff (and_congr Iff.rfl (and_congr Iff.rfl ?_))
  exact ⟨fun h hm => h _ hm rfl, fun h x hx e => h (e ▸ hx)⟩

theorem any_term_eq_false {l : List Byte} : l.any (· == Config.term) = false ↔ Config.term ∉ l := by
  rw [← Bool.not_eq_true, List.any_eq_true]
  simp only [beq_iff_eq]
  exact not_congr ⟨fun ⟨x, hx, e⟩ => e ▸ hx, fun h => ⟨_, h, rfl⟩⟩

/-- The decoder reads a well-formed reply frame as its row (R79). -/
theorem decodeReply_replyFrame {t : Nibble} {r : Reply} (h : r.wf t = true) :
    decodeReply (replyFrame t r) = .ok (replyRow t r) := by
  obtain ⟨hl, h0, h1, hb⟩ := replyWf_iff.1 h
  have hn : (joinNibbles r.addrNibble r.lowNibble :: joinNibbles t r.socket :: r.body).any (· == Config.term) =
      false := by
    rw [any_term_eq_false]
    simp [Ne.symm h0, Ne.symm h1, hb]
  have hlen : ¬ 14 < (r.body ++ [Config.term]).length := by simp; omega
  simp only [replyFrame, List.cons_append, List.nil_append, decodeReply, List.append_eq_nil_iff, List.cons_ne_nil,
    and_false, if_false, hlen, List.getLast?_concat, ne_eq, not_true_eq_false, List.dropLast_concat, hn,
    hi4_joinNibbles, lo4_joinNibbles]
  rfl

/-- What the reply decoder accepts is the frame of the fields it reads, and a well-formed reply. -/
theorem decodeReply_ok {f : List Byte} {i : Instr} (h : decodeReply f = .ok i) :
    ∃ t r, i = replyRow t r ∧ f = replyFrame t r ∧ r.wf t = true := by
  unfold decodeReply at h
  split at h
  next b0 b1 rest =>
    split at h
    · cases h
    next hne =>
      split at h
      · cases h
      next hl =>
        split at h
        · cases h
        next ht =>
          split at h
          · cases h
          next hn =>
            cases h
            have ht' : rest.getLast? = some Config.term := by simpa using ht
            have hr : rest.dropLast ++ [Config.term] = rest := List.dropLast_append_getLast? _ ht'
            refine ⟨hi4 b1, _, rfl, by simp [replyFrame, hr], ?_⟩
            have hn' := any_term_eq_false.1 (by simpa only [Bool.not_eq_true] using hn)
            simp only [List.mem_cons, not_or] at hn'
            rw [replyWf_iff]
            refine ⟨by simp; omega, ?_, ?_, hn'.2.2⟩
            · simpa using Ne.symm hn'.1
            · simpa using Ne.symm hn'.2.1
  · cases h

/-- A reply frame is a frame (R70, R76). -/
theorem replyFrame_isFrame {t : Nibble} {r : Reply} (h : r.wf t = true) : isFrame (replyFrame t r) := by
  obtain ⟨hl, h0, h1, hb⟩ := replyWf_iff.1 h
  refine ⟨by simp [replyFrame, Config.maxFrame]; omega, _, rfl, ?_⟩
  simp [Ne.symm h0, Ne.symm h1, hb]

@[simp] theorem replyFrame_length (t : Nibble) (r : Reply) : (replyFrame t r).length = r.body.length + 3 := by
  simp [replyFrame]

/-- The classification of a frame by its type (R115 to R118). -/
theorem classify_replyFrame (t : Nibble) (r : Reply) :
    classify (replyFrame t r) =
      if t = 0x4 then .ack else if t = 0x5 then .completion r.body else if t = 0x6 then .error r.code
      else .unknownType t := by
  obtain ⟨b2, rest, he, hc⟩ : ∃ b2 rest, r.body ++ [Config.term] = b2 :: rest ∧ b2 = r.code := by
    cases hb : r.body with
    | nil => exact ⟨_, _, rfl, by simp [Reply.code, hb]⟩
    | cons b bs => exact ⟨_, _, rfl, by simp [Reply.code, hb]⟩
  have hl : (b2 :: rest).getLast? = some Config.term := by rw [← he]; simp
  have hd : (b2 :: rest).dropLast = r.body := by rw [← he]; simp
  subst hc
  simp only [replyFrame, List.cons_append, List.nil_append, he, classify, hl, hd, ne_eq, not_true_eq_false, if_false,
    hi4_joinNibbles]

/-- What a row of a reply type does in an exchange is what PS does with the class (R173 to R176). -/
theorem exec_replyRow (t : Nibble) (r : Reply) (s : State) :
    exec (replyRow t r) s =
      onReply (replyFrame t r)
        (if t = 0x4 then psAck else if t = 0x5 then endOk r.body
          else if t = 0x6 then endError .deviceError r.code
          else endError .protoUnknownReplyType (t.setWidth 8)) s := by
  have he : psDeviceError (errorKindOf r.code) = endError .deviceError r.code := by
    funext x; simp [psDeviceError]
  obtain ⟨n, hn⟩ : ∃ n : Fin 16, t = BitVec.ofFin n := ⟨t.toFin, rfl⟩
  subst hn
  fin_cases n <;> first | rfl | (simp only [← he]; rfl)

end Sys2Proof.Machine
end

