-- ==== Sys2Proof/Laws/PerInstr.lean ====
section
/-! SUPPORT. A statement for every instruction: how many bytes its encoding has. -/

namespace Sys2Proof.Laws.EncodedSize

/-- The fewest and the most bytes of a format: the host port's operations are 1 to 18 bytes (R86, R87), a request 4 to
16 (R75), a reply 3 to 16 (R76), a code one byte (R74, R81). -/
def bounds : Format → Nat × Nat
  | .hostOp => (1, 18)
  | .request => (4, 16)
  | .reply => (3, 16)
  | .errorCode => (1, 1)
  | .category => (1, 1)
  | .pseudo => (4, 16)

/-- A well-formed instruction's encoding has a length that its format allows. -/
def Statement (i : Instr) : Prop :=
  i.wf = true → (bounds (formatOf i)).1 ≤ (encode i).length ∧ (encode i).length ≤ (bounds (formatOf i)).2

theorem hostReq (q : HostReq) (op : Byte) (h : q.wf = true) : 1 ≤ (encodeHostReq op q).length ∧ (encodeHostReq op q).length ≤ 18 := by
  have : q.pdata.length = 12 := by simpa [HostReq.wf, Config.maxPayload] using h
  simp [encodeHostReq, this]

theorem request (r : Request) (k : Kind) (h : r.wf = true) :
    4 ≤ (enc r.addr k r.cat r.payload).length ∧ (enc r.addr k r.cat r.payload).length ≤ 16 := by
  have : r.payload.length ≤ 12 := of_decide_eq_true h
  simp only [enc, List.length_append, List.length_cons, List.length_nil]
  omega

theorem reply (t : Nibble) (r : Reply) (h : r.wf t = true) :
    3 ≤ (replyFrame t r).length ∧ (replyFrame t r).length ≤ 16 := by
  have := (Machine.replyWf_iff.1 h).1
  rw [Machine.replyFrame_length]
  omega

theorem build (q : HostReq) : Statement (.build q) := hostReq q 1

theorem parse (n : BitVec 5) (f : List Byte) : Statement (.parse n f) := fun h => by
  have : f.length = 16 := by simpa [Instr.wf, Config.maxFrame] using h
  simp [bounds, formatOf, encode, this]

theorem nextFrame : Statement (.nextFrame) := fun _ => by decide

theorem transact (q : HostReq) : Statement (.transact q) := hostReq q 4

theorem reset : Statement (.reset) := fun _ => by decide

theorem reservedOp0 : Statement (.reservedOp0) := fun _ => by decide

theorem reservedOp6 : Statement (.reservedOp6) := fun _ => by decide

theorem reservedOp7 : Statement (.reservedOp7) := fun _ => by decide

theorem reqCommand (r : Request) : Statement (.reqCommand r) := request r .command

theorem reqInquiry (r : Request) : Statement (.reqInquiry r) := request r .inquiry

theorem rplAck (r : Reply) : Statement (.rplAck r) := reply 0x4 r

theorem rplCompletion (r : Reply) : Statement (.rplCompletion r) := reply 0x5 r

theorem rplError (r : Reply) : Statement (.rplError r) := reply 0x6 r

theorem rplReservedType0 (r : Reply) : Statement (.rplReservedType0 r) := reply 0x0 r

theorem rplReservedType1 (r : Reply) : Statement (.rplReservedType1 r) := reply 0x1 r

theorem rplReservedType2 (r : Reply) : Statement (.rplReservedType2 r) := reply 0x2 r

theorem rplReservedType3 (r : Reply) : Statement (.rplReservedType3 r) := reply 0x3 r

theorem rplReservedType7 (r : Reply) : Statement (.rplReservedType7 r) := reply 0x7 r

theorem rplReservedType8 (r : Reply) : Statement (.rplReservedType8 r) := reply 0x8 r

theorem rplReservedType9 (r : Reply) : Statement (.rplReservedType9 r) := reply 0x9 r

theorem rplReservedTypeA (r : Reply) : Statement (.rplReservedTypeA r) := reply 0xA r

theorem rplReservedTypeB (r : Reply) : Statement (.rplReservedTypeB r) := reply 0xB r

theorem rplReservedTypeC (r : Reply) : Statement (.rplReservedTypeC r) := reply 0xC r

theorem rplReservedTypeD (r : Reply) : Statement (.rplReservedTypeD r) := reply 0xD r

theorem rplReservedTypeE (r : Reply) : Statement (.rplReservedTypeE r) := reply 0xE r

theorem rplReservedTypeF (r : Reply) : Statement (.rplReservedTypeF r) := reply 0xF r

theorem errMsgLength : Statement (.errMsgLength) := fun _ => by decide

theorem errSyntax : Statement (.errSyntax) := fun _ => by decide

theorem errFullBuffer : Statement (.errFullBuffer) := fun _ => by decide

theorem errCanceled : Statement (.errCanceled) := fun _ => by decide

theorem errNoSocket : Statement (.errNoSocket) := fun _ => by decide

theorem errNotExecutable : Statement (.errNotExecutable) := fun _ => by decide

theorem errOther (c : Byte) : Statement (.errOther c) := fun _ => by simp [bounds, formatOf, encode]

theorem catCamera1 : Statement (.catCamera1) := fun _ => by decide

theorem catPanTilter : Statement (.catPanTilter) := fun _ => by decide

theorem powerGet (a : BitVec 3) : Statement (.powerGet a) := fun _ => by simp [bounds, formatOf, encode, encodePseudo, pseudoRequest, enc]

theorem powerSet (a : BitVec 3) (v : Byte) : Statement (.powerSet a v) := fun _ => by simp [bounds, formatOf, encode, encodePseudo, pseudoRequest, enc]

theorem zoomGet (a : BitVec 3) : Statement (.zoomGet a) := fun _ => by simp [bounds, formatOf, encode, encodePseudo, pseudoRequest, enc]

theorem zoomSet (a : BitVec 3) (v : BitVec 16) : Statement (.zoomSet a v) := fun _ => by simp [bounds, formatOf, encode, encodePseudo, pseudoRequest, enc]

theorem panTiltGet (a : BitVec 3) : Statement (.panTiltGet a) := fun _ => by simp [bounds, formatOf, encode, encodePseudo, pseudoRequest, enc]

theorem panTiltSetAbsolute (a : BitVec 3) (p t : BitVec 16) : Statement (.panTiltSetAbsolute a p t) := fun _ => by simp [bounds, formatOf, encode, encodePseudo, pseudoRequest, enc]

theorem panTiltSetRelative (a : BitVec 3) (p t : BitVec 16) : Statement (.panTiltSetRelative a p t) := fun _ => by simp [bounds, formatOf, encode, encodePseudo, pseudoRequest, enc]

theorem panTiltJogOrStop (a : BitVec 3) (d0 d1 d2 d3 d4 : Byte) : Statement (.panTiltJogOrStop a d0 d1 d2 d3 d4) := fun _ => by simp [bounds, formatOf, encode, encodePseudo, pseudoRequest, enc]

theorem presetsSetResetRecall (a : BitVec 3) (o s : Byte) : Statement (.presetsSetResetRecall a o s) := fun _ => by simp [bounds, formatOf, encode, encodePseudo, pseudoRequest, enc]

end Sys2Proof.Laws.EncodedSize
end

