-- ==== Sys2Proof/Laws/Step.lean ====
section
/-! SUPPORT. Everything a step can do, said once: what a host operation can answer, what a delivered frame can come to,
and the cases of a step. -/

namespace Sys2Proof.Machine

/-! ## Host operations -/

theorem decodeHostReq_ok {mk : HostReq → Instr} {bs : List Byte} {i : Instr} (h : decodeHostReq mk bs = .ok i) :
    ∃ q more, i = mk q ∧ q.wf = true ∧ bs = [q.addr, q.kind.select, q.cat, q.plen] ++ q.pdata ++ more := by
  unfold decodeHostReq at h
  split at h
  next addr kind cat plen rest =>
    split at h
    · cases h
    next hl =>
      have hw : (rest.take Config.maxPayload).length = Config.maxPayload := by simp; omega
      have hr : rest = rest.take Config.maxPayload ++ rest.drop Config.maxPayload := by simp
      split at h
      next hk =>
        cases h
        exact ⟨_, rest.drop Config.maxPayload, rfl, by simp [HostReq.wf, hw], by simp [Kind.select, hk]⟩
      · split at h
        next hk =>
          cases h
          exact ⟨_, rest.drop Config.maxPayload, rfl, by simp [HostReq.wf, hw], by simp [Kind.select, hk]⟩
        · cases h
  · cases h

theorem decodeParse_ok {bs : List Byte} {i : Instr} (h : decodeParse bs = .ok i) :
    ∃ flen fdata more, i = .parse flen fdata ∧ fdata.length = Config.maxFrame ∧
      bs = [flen.setWidth 8] ++ fdata ++ more := by
  unfold decodeParse at h
  split at h
  next flen rest =>
    split at h
    · cases h
    next hl =>
      split at h
      · cases h
      next hf =>
        cases h
        refine ⟨_, _, rest.drop Config.maxFrame, rfl, by simp; omega, ?_⟩
        have : (flen.setWidth 5 : BitVec 5).setWidth 8 = flen := by
          apply BitVec.eq_of_toNat_eq
          simp only [BitVec.toNat_setWidth]
          omega
        simp [this]
  · cases h

/-- What the host-port decoder accepts: a host operation, at the head of the bytes (R86, R87). -/
theorem decodeHostOp_ok {bs : List Byte} {i : Instr} (h : decodeHostOp bs = .ok i) :
    i.wf = true ∧ formatOf i = .hostOp ∧ ∃ more, bs = encode i ++ more := by
  unfold decodeHostOp at h
  split at h
  · cases h
  next op rest =>
    have hop : ∀ n : Nat, op.toNat = n → op = BitVec.ofNat 8 n := by
      rintro n rfl; simp
    split at h
    next e => cases h; exact ⟨rfl, rfl, rest, by simp [encode, hop _ e]⟩
    next e =>
      obtain ⟨q, more, rfl, hw, rfl⟩ := decodeHostReq_ok h
      exact ⟨hw, rfl, more, by simp [encode, encodeHostReq, hop _ e]⟩
    next e =>
      obtain ⟨flen, fdata, more, rfl, hl, rfl⟩ := decodeParse_ok h
      exact ⟨by simp [Instr.wf, hl], rfl, more, by simp [encode, hop _ e]⟩
    next e => cases h; exact ⟨rfl, rfl, rest, by simp [encode, hop _ e]⟩
    next e =>
      obtain ⟨q, more, rfl, hw, rfl⟩ := decodeHostReq_ok h
      exact ⟨hw, rfl, more, by simp [encode, encodeHostReq, hop _ e]⟩
    next e => cases h; exact ⟨rfl, rfl, rest, by simp [encode, hop _ e]⟩
    next e => cases h; exact ⟨rfl, rfl, rest, by simp [encode, hop _ e]⟩
    next e => cases h; exact ⟨rfl, rfl, rest, by simp [encode, hop _ e]⟩
    · cases h

theorem pseudoInquiry_ok {a : BitVec 3} {cat b : Byte} {i : Instr} (h : pseudoInquiry a cat b = .ok i) :
    i.wf = true ∧ formatOf i = .pseudo ∧ encode i = enc a .inquiry cat [b] := by
  unfold pseudoInquiry at h
  split at h
  next e => cases h; exact ⟨rfl, rfl, by simp [encode, encodePseudo, pseudoRequest, e.1, e.2]⟩
  · split at h
    next e => cases h; exact ⟨rfl, rfl, by simp [encode, encodePseudo, pseudoRequest, e.1, e.2]⟩
    · split at h
      next e => cases h; exact ⟨rfl, rfl, by simp [encode, encodePseudo, pseudoRequest, e.1, e.2]⟩
      · cases h

theorem slot_mask {b : Byte} (h : b ≤ 0x0F) : b &&& 0x0F = b := by
  revert b
  decide

theorem allNibbles_append (a b : List Byte) : allNibbles (a ++ b) = (allNibbles a && allNibbles b) := by
  simp [allNibbles]

theorem pseudoCommand_ok {a : BitVec 3} {cat : Byte} {p : List Byte} {i : Instr} (h : pseudoCommand a cat p = .ok i) :
    i.wf = true ∧ formatOf i = .pseudo ∧ encode i = enc a .command cat p := by
  unfold pseudoCommand at h
  split at h
  next =>
    split at h
    next e => cases h; exact ⟨rfl, rfl, by simp [encode, encodePseudo, pseudoRequest, e.1, e.2]⟩
    · cases h
  next =>
    split at h
    next e =>
      cases h
      exact ⟨decide_eq_true e.2.2, rfl, by
        simp only [encode, encodePseudo, pseudoRequest, slot_mask e.2.2, e.1, e.2.1]⟩
    · cases h
  next =>
    split at h
    next e =>
      cases h
      exact ⟨rfl, rfl, by simp only [encode, encodePseudo, pseudoRequest, nib_unNib e.2.2, e.1, e.2.1]⟩
    · split at h
      next e => cases h; exact ⟨rfl, rfl, by simp [encode, encodePseudo, pseudoRequest, e]⟩
      · cases h
  next m x y p0 p1 p2 p3 t0 t1 t2 t3 =>
    split at h
    next e =>
      obtain ⟨e1, e2, e3, e4⟩ := e
      rw [show ([p0, p1, p2, p3, t0, t1, t2, t3] : List Byte) = [p0, p1, p2, p3] ++ [t0, t1, t2, t3] from rfl,
        allNibbles_append, Bool.and_eq_true] at e4
      split at h
      next em =>
        cases h
        exact ⟨rfl, rfl, by
          simp only [encode, encodePseudo, pseudoRequest, nib_unNib e4.1, nib_unNib e4.2, e1, e2, e3, em]; rfl⟩
      · split at h
        next em =>
          cases h
          exact ⟨rfl, rfl, by
            simp only [encode, encodePseudo, pseudoRequest, nib_unNib e4.1, nib_unNib e4.2, e1, e2, e3, em]; rfl⟩
        · cases h
    · cases h
  · cases h

/-- What the Command Layer decoder accepts: an operation whose frame these bytes are (R91). -/
theorem decodePseudo_ok {f : List Byte} {i : Instr} (h : decodePseudo f = .ok i) :
    i.wf = true ∧ formatOf i = .pseudo ∧ f = encode i := by
  unfold decodePseudo at h
  split at h
  next a cat b e =>
    obtain ⟨h1, h2, h3⟩ := pseudoInquiry_ok h
    exact ⟨h1, h2, by rw [h3]; exact (splitRequest_ok e).2⟩
  · cases h
  next r e =>
    obtain ⟨h1, h2, h3⟩ := pseudoCommand_ok h
    exact ⟨h1, h2, by rw [h3]; exact (splitRequest_ok e).2⟩
  · cases h

/-- A host word decodes to a host operation or a Command Layer operation. -/
theorem decodeHostWord_format {w : HostWord} {i : Instr} (h : decodeHostWord w = .ok i) :
    formatOf i = .hostOp ∨ formatOf i = .pseudo := by
  cases w with
  | op bs => exact .inl (decodeHostOp_ok h).2.1
  | command f => exact .inr (decodePseudo_ok h).2.1

/-- The next states of a host operation `i`. -/
inductive HostEffect (i : Instr) (s : State) : State → Prop where
  | faulted : i ≠ .reset → s.seq = .fault → HostEffect i s (faulted s)
  | reset : i = .reset → s.seq = .idle ∨ s.seq = .fault → HostEffect i s (resetBlock s)
  | enterFault (c : FaultCause) (v : Byte) :
      s.seq = .idle → c ≠ .none → detailInTable s.resClass v (faultResCode c) → HostEffect i s (enterFault c v s)
  | error (c : ResCode) (d : Byte) :
      s.seq = .idle → c ≠ .ok → detailInTable s.resClass d c → HostEffect i s (setError c d s)
  | ok (f : List Byte) : s.seq = .idle → f.length ≤ 16 → HostEffect i s (setOk f s)
  | parsed (f : List Byte) (c : ResClass) (p : Option (List Byte)) (d : Byte) :
      s.seq = .idle → (p.getD []).length ≤ 16 → d = 0 ∨ c = .error → HostEffect i s (parsed f c p d s)
  | nextFrame : s.seq = .idle → HostEffect i s { s with seq := .rxf }
  | transact (k : Kind) (r : Request) :
      s.seq = .idle → r.wf = true → HostEffect i s { latch (enc r.addr k r.cat r.payload) s with seq := .tx }

theorem requestFrame_wf {q : HostReq} (hp : q.plen.toNat ≤ 12) :
    Request.wf ⟨q.addr.setWidth 3, q.cat, payloadRead q⟩ = true := by
  simp [Request.wf, payloadRead, Config.maxPayload]
  omega

/-- An issued operation other than RESET: FAULTED in FAULT, and in IDLE its own effect. -/
theorem issue_effect {i : Instr} {s t : State} {run : Out} (hi : i ≠ .reset)
    (hrun : s.seq = .idle → run = .next t → HostEffect i s t) (h : issue s run = .next t) : HostEffect i s t := by
  rcases issue_next h with ⟨hq, h⟩ | ⟨hf, rfl⟩
  · exact hrun hq h
  · exact .faulted hi hf

theorem execBuild_effect {i : Instr} {q : HostReq} {s t : State} (hi : i ≠ .reset) (h : execBuild q s = .next t) :
    HostEffect i s t := by
  refine issue_effect hi (fun hq h => ?_) h
  rcases buildPhase_next h with ⟨c, v, hc, hd, rfl⟩ | ⟨-, hp, -, h⟩
  · exact .enterFault c v hq hc hd
  · cases h
    refine .ok _ hq ?_
    simp [requestFrame, payloadRead]
    omega

theorem execTransact_effect {i : Instr} {q : HostReq} {s t : State} (hi : i ≠ .reset)
    (h : execTransact q s = .next t) : HostEffect i s t := by
  refine issue_effect hi (fun hq h => ?_) h
  rcases buildPhase_next h with ⟨c, v, hc, hd, rfl⟩ | ⟨-, hp, -, h⟩
  · exact .enterFault c v hq hc hd
  · cases h
    exact .transact q.kind ⟨q.addr.setWidth 3, q.cat, payloadRead q⟩ hq (requestFrame_wf hp)

theorem classify_completion_length {f p : List Byte} (h : classify f = .completion p) : p.length ≤ f.length := by
  unfold classify at h
  split at h
  · repeat' split at h
    all_goals cases h
    simp
    omega
  · cases h

/-- A frame is too short when it has fewer than 3 bytes, and the answer counts them (R114). -/
theorem classify_tooShort {f : List Byte} {n : Nat} (h : classify f = .tooShort n) : n ≤ 2 ∧ f.length = n := by
  unfold classify at h
  split at h
  · repeat' split at h
    all_goals cases h
  next hf =>
    cases h
    match f, hf with
    | [], _ => simp
    | [a], _ => simp
    | [a, b], _ => simp
    | a :: b :: c :: r, hf => exact absurd rfl (hf a b c r)

/-- An unknown type is none of Ack, Completion and Error (R115). -/
theorem classify_unknownType {f : List Byte} {t : Nibble} (h : classify f = .unknownType t) :
    t ≠ 0x4 ∧ t ≠ 0x5 ∧ t ≠ 0x6 := by
  unfold classify at h
  split at h
  · repeat' split at h
    all_goals cases h
    exact ⟨by assumption, by assumption, by assumption⟩
  · cases h

/-- The detail of a frame that is too short (R211). -/
theorem tooShort_detail (c : ResClass) {n : Nat} (h : n ≤ 2) :
    detailInTable c (BitVec.ofNat 8 n) .protoFrameTooShort := by
  simp only [detailInTable, BitVec.toNat_ofNat]
  omega

/-- The detail of an unknown reply type (R211). -/
theorem unknownType_detail (c : ResClass) {t : Nibble} (h : t ≠ 0x4 ∧ t ≠ 0x5 ∧ t ≠ 0x6) :
    detailInTable c (t.setWidth 8) .protoUnknownReplyType := by
  revert h
  revert t
  simp only [detailInTable]
  decide

theorem execParse_effect {i : Instr} {n : BitVec 5} {f : List Byte} {s t : State} (hi : i ≠ .reset)
    (h : execParse n f s = .next t) : HostEffect i s t := by
  refine issue_effect hi (fun hq h => ?_) h
  split at h
  · cases h
  next hn =>
    have hl : (f.take n.toNat).length ≤ 16 := by simp [Config.maxFrame] at *; omega
    unfold parseResult at h
    split at h
    next n hc => cases h; exact .error _ _ hq (by simp) (tooShort_detail _ (classify_tooShort hc).1)
    · cases h
    next ty hc => cases h; exact .error _ _ hq (by simp) (unknownType_detail _ (classify_unknownType hc))
    · cases h; exact .parsed _ _ _ _ hq (by simp) (.inl rfl)
    next p hc =>
      cases h
      exact .parsed _ _ _ _ hq (by simpa using Nat.le_trans (classify_completion_length hc) hl) (.inl rfl)
    · cases h; exact .parsed _ _ _ _ hq (by simp) (.inr rfl)

theorem illegal_effect {i : Instr} {op : Byte} {s t : State} (hi : i ≠ .reset) (ho : op = 0 ∨ op = 6 ∨ op = 7)
    (h : issue s (.next (illegalOp op s)) = .next t) : HostEffect i s t := by
  refine issue_effect hi (fun hq h => ?_) h
  cases h
  exact .error _ _ hq (by simp) ho

/-- What a host operation or a Command Layer operation can answer. -/
theorem exec_host_effect {i : Instr} {s t : State} (hi : formatOf i = .hostOp ∨ formatOf i = .pseudo)
    (h : exec i s = .next t) : HostEffect i s t := by
  cases i with
  | build q => exact execBuild_effect (by simp) h
  | parse n f => exact execParse_effect (by simp) h
  | nextFrame => exact issue_effect (by simp) (fun hq h => by cases h; exact .nextFrame hq) h
  | transact q => exact execTransact_effect (by simp) h
  | reset =>
    simp only [exec, execReset] at h
    split at h
    next hq => cases h; exact .reset rfl (.inl hq)
    next hq => cases h; exact .reset rfl (.inr hq)
    all_goals cases h
  | reservedOp0 => exact illegal_effect (by simp) (by simp) h
  | reservedOp6 => exact illegal_effect (by simp) (by simp) h
  | reservedOp7 => exact illegal_effect (by simp) (by simp) h
  | powerGet a => exact execTransact_effect (by simp) h
  | powerSet a v => exact execTransact_effect (by simp) h
  | zoomGet a => exact execTransact_effect (by simp) h
  | zoomSet a v => exact execTransact_effect (by simp) h
  | panTiltGet a => exact execTransact_effect (by simp) h
  | panTiltSetAbsolute a p t => exact execTransact_effect (by simp) h
  | panTiltSetRelative a p t => exact execTransact_effect (by simp) h
  | panTiltJogOrStop a d0 d1 d2 d3 d4 => exact execTransact_effect (by simp) h
  | presetsSetResetRecall a o sl => exact execTransact_effect (by simp) h
  | _ => simp [formatOf] at hi

/-! ## Delivered frames -/

/-- The next states of a frame delivered in a receive state (R140, R173 to R176): `s` is the state the frame was taken
from. -/
inductive FrameEffect (f : List Byte) (s : State) : State → Prop where
  | returned : s.seq = .rxf → FrameEffect f s (endOk f s)
  | ack : s.seq = .rx1 → FrameEffect f s { s with seq := .rx2 }
  | completion (p : List Byte) : s.seq = .rx1 ∨ s.seq = .rx2 → p.length ≤ 13 → FrameEffect f s (endOk p s)
  | deviceError (c : Byte) : s.seq = .rx1 ∨ s.seq = .rx2 → FrameEffect f s (endError .deviceError c s)
  | proto (c : ResCode) (d : Byte) : s.seq = .rx1 ∨ s.seq = .rx2 →
      c = .protoFrameTooShort ∨ c = .protoUnknownReplyType ∨ c = .protoUnexpectedReply →
      detailInTable s.resClass d c →
      FrameEffect f s (endError c d s)

/-- What the fetch of a delivered frame can come to. -/
theorem frame_effect {f : List Byte} {s t : State} (hq : s.seq.receiving = true)
    (h : (match fetchFrame f s with | .run i u => exec i u | .outcome o => o) = .next t) : FrameEffect f s t := by
  by_cases hx : s.seq = .rxf
  · simp only [fetchFrame, hx] at h
    cases h
    exact .returned hx
  · have hr : s.seq = .rx1 ∨ s.seq = .rx2 := by
      cases hs : s.seq <;> simp_all [Seq.receiving]
    have hm : fetchFrame f s = if f.length < Config.minReply then
        .outcome (.next (endError .protoFrameTooShort (BitVec.ofNat 8 f.length) s))
        else fetchDecoded (decode .reply f) s := by
      rcases hr with hr | hr <;> simp [fetchFrame, hr]
    rw [hm] at h
    split at h
    next i u he =>
      split at he
      · cases he
      · unfold fetchDecoded at he
        split at he
        next j hd =>
          cases he
          obtain ⟨ty, r, rfl, -, hw⟩ := decodeReply_ok hd
          rw [exec_replyRow, onReply_exchange _ _ hr] at h
          cases h
          have hl := (replyWf_iff.1 hw).1
          split
          next h4 =>
            rcases hr with hr | hr
            · simpa [psAck, hr] using FrameEffect.ack (f := f) hr
            · simpa [psAck, hr] using
                FrameEffect.proto (f := f) .protoUnexpectedReply 0x4 (.inr hr) (.inr (.inr rfl)) rfl
          next h4 =>
            split
            · exact .completion _ hr hl
            next h5 =>
              split
              · exact .deviceError _ hr
              next h6 => exact .proto _ _ hr (.inr (.inl rfl)) (unknownType_detail _ ⟨h4, h5, h6⟩)
        · cases he
    next o he =>
      split at he
      next hl =>
        cases he
        cases h
        exact .proto _ _ hr (.inl rfl) (tooShort_detail _ (Nat.le_of_lt_succ hl))
      · unfold fetchDecoded at he
        split at he
        · cases he
        · cases he; cases h

/-! ## The step -/

/-- The cases of a step that answers a next state, with the power-on reset input not asserted. -/
inductive StepEffect (s : State) : State → Prop where
  | wait : s.seq = .idle ∨ s.seq = .fault → s.host = [] → StepEffect s s
  | host (w : HostWord) (rest : List HostWord) (i : Instr) (t : State) :
      s.seq = .idle ∨ s.seq = .fault → s.host = w :: rest → decodeHostWord w = .ok i →
      exec i { s with host := rest } = .next t → HostEffect i { s with host := rest } t → StepEffect s t
  | transmit (f : List Byte) (t : State) :
      s.seq = .tx → txBytes s = some f → chanWrite f s = .next t → StepEffect s t
  | frame (bs : List Byte) (p : Nat) (t : State) :
      s.seq.receiving = true → held s = some bs → firstTerm bs = some p →
      FrameEffect (bs.take (p + 1)) (shift (p + 1) s) t → StepEffect s t
  | full (bs : List Byte) :
      s.seq.receiving = true → held s = some bs → Config.term ∉ bs → s.rxCnt = Config.bufCap →
      StepEffect s (receiveFail .resourceBufferFull 0 s)
  | read (bs : List Byte) (t : State) :
      s.seq.receiving = true → held s = some bs → Config.term ∉ bs → s.rxCnt ≠ Config.bufCap →
      chanRead s = .next t → StepEffect s t

theorem step_receiving_effect {s t : State} (hp : s.powerOn = false) (hq : s.seq.receiving = true)
    (h : step s = .next t) : StepEffect s t := by
  simp only [step, fetch_receiving hp hq, fetchReceive, nextFrameTurn] at h
  cases hh : held s with
  | none => simp [hh] at h
  | some bs =>
    simp only [hh] at h
    cases hf : firstTerm bs with
    | some p =>
      simp only [hf] at h
      exact .frame bs p t hq hh hf (frame_effect hq h)
    | none =>
      have hn := firstTerm_eq_none.1 hf
      simp only [hf] at h
      by_cases hc : s.rxCnt = Config.bufCap
      · simp only [hc, if_true] at h
        cases h
        exact .full bs hq hh hn hc
      · simp only [hc, if_false] at h
        exact .read bs t hq hh hn hc h

theorem step_host_effect {s t : State} (hp : s.powerOn = false) (hq : s.seq = .idle ∨ s.seq = .fault)
    (h : step s = .next t) : StepEffect s t := by
  cases hh : s.host with
  | nil =>
    rw [step_wait hp hq hh] at h
    cases h
    exact .wait hq hh
  | cons w rest =>
    cases hd : decodeHostWord w with
    | ok i =>
      rw [step_host hp hq hh hd] at h
      exact .host w rest i t hq hh hd h (exec_host_effect (decodeHostWord_format hd) h)
    | reject e =>
      exfalso
      rcases hq with hq | hq <;> simp [step, fetch, hp, hq, fetchHost, hh, fetchDecoded, hd] at h

theorem step_tx_effect {s t : State} (hp : s.powerOn = false) (hq : s.seq = .tx)
    (h : step s = .next t) : StepEffect s t := by
  simp only [step, fetch, hp, hq, fetchTx] at h
  cases hf : txBytes s with
  | none => simp [hf] at h
  | some f =>
    simp only [hf, fetchDecoded, decode, decodeRequest, Bool.false_eq_true, if_false] at h
    cases hsp : splitRequest f with
    | error e => simp [hsp] at h
    | ok kr =>
      obtain ⟨k, r⟩ := kr
      obtain ⟨-, he⟩ := splitRequest_ok hsp
      refine .transmit f t hq hf ?_
      cases k
      · simpa [hsp, exec, execReqCommand, transmit, hq, ← he] using h
      · simpa [hsp, exec, execReqInquiry, transmit, hq, ← he] using h

/-- Everything a step can do, with the power-on reset input not asserted. -/
theorem step_effect {s t : State} (hp : s.powerOn = false) (h : step s = .next t) : StepEffect s t := by
  cases hq : s.seq with
  | idle => exact step_host_effect hp (.inl hq) h
  | fault => exact step_host_effect hp (.inr hq) h
  | tx => exact step_tx_effect hp hq h
  | rx1 => exact step_receiving_effect hp (by simp [hq, Seq.receiving]) h
  | rx2 => exact step_receiving_effect hp (by simp [hq, Seq.receiving]) h
  | rxf => exact step_receiving_effect hp (by simp [hq, Seq.receiving]) h

/-! ## Runs -/

/-- A run goes on from the state its first step reaches. -/
theorem runSteps_succ {s t : State} (k : Nat) (h : step s = .next t) : runSteps (k + 1) s = runSteps k t := by
  simp [runSteps, h]

/-- The runs of the package are the runs of the host's interface. -/
theorem runSteps_eq_core_run (k : Nat) (s : State) : runSteps k s = core.run k s := by
  induction k generalizing s with
  | zero => rfl
  | succ k ih =>
    have hs : core.step s = step s := rfl
    simp only [runSteps, Host.Core.run, hs]
    cases step s with
    | next t => exact ih t
    | fault r => rfl
    | refused r => rfl

/-! ## What the invariant gives a step -/

/-- The held bytes of a state of the invariant can be read. -/
theorem held_of_inv {s : State} (h : Inv s) : ∃ bs, held s = some bs ∧ holds s bs := by
  obtain ⟨bs, hb, -⟩ := h.rx
  exact ⟨bs, held_of_holds hb, hb⟩

/-- Every frame of 3 to 16 bytes decodes as a reply (R76, R79): the reply rows cover all type nibbles. -/
theorem decodeReply_frame {g : List Byte} (hg : Config.term ∉ g) (h2 : 2 ≤ g.length) (h15 : g.length ≤ 15) :
    ∃ t r, decode .reply (g ++ [Config.term]) = .ok (replyRow t r) ∧ g ++ [Config.term] = replyFrame t r := by
  match g, h2 with
  | [], h => simp at h
  | [_], h => simp at h
  | a :: b :: r, _ =>
    have hw : Reply.wf (hi4 b) ⟨hi4 a, lo4 a, lo4 b, r⟩ = true := by
      simp at hg h15
      simp only [replyWf_iff, joinNibbles_hi4_lo4]
      exact ⟨by omega, Ne.symm hg.1, Ne.symm hg.2.1, hg.2.2⟩
    have he : a :: b :: r ++ [Config.term] = replyFrame (hi4 b) ⟨hi4 a, lo4 a, lo4 b, r⟩ := by
      simp only [replyFrame, joinNibbles_hi4_lo4]
      rfl
    exact ⟨_, _, by simpa only [decode, ← he] using decodeReply_replyFrame hw, he⟩

/-- A failed receive step is the error end, but for `suspect` in RXF (R140, R152, R180). -/
theorem receiveFail_eq (c : ResCode) (d : Byte) (s : State) :
    receiveFail c d s = { setError c d s with
      seq := .idle, suspect := if s.seq = .rxf then s.suspect else suspectAfter c s.suspect } := by
  cases hs : s.seq <;> simp [receiveFail, endError, hs]

/-! ## The next transaction, and the ends of a run -/

/-- At rest the block makes no transaction. -/
theorem asks_rest {s : State} (h : s.seq = .idle ∨ s.seq = .fault) : asks s = none := by
  rcases h with h | h <;> simp [asks, h]

/-- In TX the block writes the latched frame (R172). -/
theorem asks_tx {s : State} (h : s.seq = .tx) : asks s = (txBytes s).map .write := by simp [asks, h]

/-- In a receive state the block reads when no frame is held and there is room (R141, R143). -/
theorem asks_receiving {s : State} {bs : List Byte} (hq : s.seq.receiving = true) (hh : holds s bs) :
    asks s = if Config.term ∈ bs ∨ s.rxCnt = Config.bufCap then none
      else some (.read (Config.bufCap - s.rxCnt)) := by
  cases hs : s.seq <;> simp_all [asks, Seq.receiving, held_of_holds hh]

/-- A stuck block waits in a receive state for a read that has no answer. -/
theorem stuck_iff {s : State} {bs : List Byte} (hh : holds s bs) :
    stuck s ↔ s.seq.receiving = true ∧ s.script = [] ∧ Config.term ∉ bs ∧ s.rxCnt ≠ Config.bufCap := by
  by_cases hq : s.seq.receiving = true
  · simp only [stuck, hq, asks_receiving hq hh]
    by_cases ht : Config.term ∈ bs <;> by_cases hc : s.rxCnt = Config.bufCap <;> simp [ht, hc]
  · simp [stuck, hq]

theorem runProgram_ended (k : Nat) {s : State} (h : ended s) : runProgram k s = .ended s.observe := by
  cases k <;> simp only [runProgram] <;> rw [if_pos h]

theorem runProgram_stuck (k : Nat) {s : State} (he : ¬ ended s) (h : stuck s) : runProgram k s = .stuck := by
  cases k <;> simp only [runProgram] <;> rw [if_neg he, if_pos h]

/-- A run that has not ended and is not stuck goes on by a step. -/
theorem runProgram_next (k : Nat) {s t : State} (he : ¬ ended s) (hs : ¬ stuck s) (h : step s = .next t) :
    runProgram (k + 1) s = runProgram k t := by
  simp only [runProgram, h]
  rw [if_neg he, if_neg hs]

theorem runProgram_refused (k : Nat) {s : State} {r : Refusal} (he : ¬ ended s) (hs : ¬ stuck s)
    (h : step s = .refused r) : runProgram (k + 1) s = .refused r := by
  simp only [runProgram, h]
  rw [if_neg he, if_neg hs]

/-! ## Channels -/

/-- A channel gives answers and touches nothing else. -/
theorem serve_eq (c : Channel) (n : Nat) (s : State) : c.serve n s = { s with script := (c.serve n s).script } := by
  unfold Channel.serve
  split
  · split <;> rfl
  · rfl

/-- A channel gives no answer where none is asked for. -/
theorem serve_none (c : Channel) (n : Nat) {s : State} (h : asks s = none) : c.serve n s = s := by
  simp [Channel.serve, h]

/-- With an empty script, a read is answered as the channel answers it. -/
theorem serve_read (c : Channel) (n : Nat) {s : State} {max : Nat} (hs : s.script = [])
    (h : asks s = some (.read max)) : c.serve n s = { s with script := (c.onRead n max).toList } := by
  simp [Channel.serve, hs, h]

/-- With an empty script, a write is answered as the channel answers it. -/
theorem serve_write (c : Channel) (n : Nat) {s : State} {f : List Byte} (hs : s.script = [])
    (h : asks s = some (.write f)) : c.serve n s = { s with script := [c.onWrite n f] } := by
  simp [Channel.serve, hs, h]

/-- A run with a channel goes on from the state its first step reaches. -/
theorem Channel.run_succ (c : Channel) (n k : Nat) {s t : State} (h : step (c.serve n s) = .next t) :
    c.run n (k + 1) s = c.run (n + 1) k t := by
  simp [Channel.run, h]

end Sys2Proof.Machine
end

