-- ==== Sys2Proof/Tests/Slice0.lean ====
section
/-! SUPPORT. The package's own tests: ill-formed terms refused, words written out from spec 30_encoding.md decoded, single
steps on the vectors of spec 95_test_vectors.md, and for every statement with hypotheses a state and operands that meet
them. Expected values are the spec's. -/

namespace Sys2Proof.Machine

/-! ## Helpers -/

/-- Twelve payload bytes on the port: these, then zeros. -/
def port (p : List Byte) : List Byte := p ++ List.replicate (12 - p.length) 0

/-- Sixteen frame bytes on the port: these, then zeros. -/
def framePort (f : List Byte) : List Byte := f ++ List.replicate (16 - f.length) 0

/-- BUILD's and TRANSACT's operands with all payload bytes read. -/
def hostReq (a : Byte) (k : Kind) (c : Byte) (p : List Byte) : HostReq := ⟨a, k, c, BitVec.ofNat 8 p.length, port p⟩

/-- The clean state in a sequencer state, with held bytes and a channel script. -/
def at' (q : Seq) (bs : List Byte) (script : List ChanAnswer) : State :=
  { State.reset with seq := q, rxBuf := cellsOf bs, rxCnt := bs.length, script := script }

/-- The clean state in FAULT. -/
def faultState : State := { State.reset with seq := .fault, faultCause := .addressOutOfRange }

/-- A machine that extends `CATEGORY_CODES` by 0x07 (R7). -/
def extended : State := { State.reset with extraCategories := [0x07] }

/-- The clean state in TX with a latched frame. -/
def txState (f : List Byte) (script : List ChanAnswer) : State :=
  { latch f State.reset with seq := .tx, script := script }

/-- At rest, with a program of one operation. -/
def issuing (w : HostWord) (held : List Byte) (script : List ChanAnswer) : State :=
  { at' .idle held script with host := [w] }

/-- The result code, detail and bytes after an outcome. -/
def result (o : Out) : Option (Byte × Byte × Option (List Byte)) :=
  (nextState? o).map fun t => (t.resCode.code, t.resDetail, t.resultBytes)

/-- How an operation or a step ended: the result code and detail, the sequencer and the flags. -/
structure Ending where
  code    : Byte
  detail  : Byte
  seq     : BitVec 3
  suspect : Bool
  cause   : BitVec 2
  deriving DecidableEq, Repr

/-- The ending of an outcome. -/
def ending (o : Out) : Option Ending :=
  (nextState? o).map fun t => ⟨t.resCode.code, t.resDetail, t.seq.code, t.suspect, t.faultCause.code⟩

/-- What PARSE reports. -/
structure ParseReport where
  code   : Byte
  detail : Byte
  cls    : BitVec 2
  addr   : Option Nibble
  socket : Option Nibble
  bytes  : Option (List Byte)
  deriving DecidableEq, Repr

/-- PARSE of a frame, from reset. -/
def parsedAs (f : List Byte) : Option ParseReport :=
  (nextState? (exec (.parse (BitVec.ofNat 5 f.length) (framePort f)) State.reset)).map fun t =>
    ⟨t.resCode.code, t.resDetail, t.resClass.code, t.resAddr, t.resSocket, t.resultBytes⟩

/-- The sixteen bytes 00 to 0F, which hold no terminator (vectors N5 and B4). -/
def sixteen : List Byte := [0, 1, 2, 3, 4, 5, 6, 7, 8, 9, 10, 11, 12, 13, 14, 15]

/-- The Zoom.set request of L1.6. -/
def zoomReq : HostReq := hostReq 1 .command 0x04 [0x47, 0x00, 0x01, 0x0B, 0x0C]

/-- The frame of the Zoom.set request (L1.6). -/
def zoomFrame : List Byte := [0x81, 0x01, 0x04, 0x47, 0x00, 0x01, 0x0B, 0x0C, 0xFF]

/-- The replies `90 41 FF`, `90 51 FF` and `90 61 02 FF`. -/
def ackReply : Reply := ⟨9, 0, 1, []⟩

def doneReply : Reply := ⟨9, 0, 1, []⟩

def errorReply : Reply := ⟨9, 0, 1, [0x02]⟩

/-! ## Ill-formed terms are refused -/

theorem test_wf_payload_port_short : (Instr.build ⟨1, .command, 4, 0, sixteen.take 11⟩).wf = false := by decide

theorem test_wf_transact_port_long : (Instr.transact ⟨1, .command, 4, 0, sixteen.take 13⟩).wf = false := by decide

theorem test_wf_frame_port_short : (Instr.parse 3 (sixteen.take 15)).wf = false := by decide

theorem test_wf_request_payload_long : (Instr.reqCommand ⟨1, 4, sixteen.take 13⟩).wf = false := by decide

theorem test_wf_reply_body_long : (Instr.rplAck ⟨9, 0, 1, sixteen.take 14⟩).wf = false := by decide

theorem test_wf_reply_byte0_terminator : (Instr.rplAck ⟨0xF, 0xF, 1, []⟩).wf = false := by decide

theorem test_wf_reply_byte1_terminator : (Instr.rplReservedTypeF ⟨9, 0, 0xF, []⟩).wf = false := by decide

theorem test_wf_reply_inner_terminator : (Instr.rplCompletion ⟨9, 0, 1, [0x02, 0xFF]⟩).wf = false := by decide

theorem test_wf_other_named_code : (Instr.errOther 0x41).wf = false := by decide

theorem test_wf_preset_slot_large : (Instr.presetsSetResetRecall 1 0 0x10).wf = false := by decide

theorem test_wf_longest_forms :
    (Instr.build ⟨1, .command, 4, 12, sixteen.take 12⟩).wf = true ∧ (Instr.parse 16 sixteen).wf = true ∧
      (Instr.reqInquiry ⟨7, 6, sixteen.take 12⟩).wf = true ∧ (Instr.rplCompletion ⟨9, 0, 1, sixteen.take 13⟩).wf = true ∧
      (Instr.rplReservedTypeF ⟨0xF, 0xE, 0xE, []⟩).wf = true ∧ (Instr.presetsSetResetRecall 1 0 0x0F).wf = true := by
  decide

/-! ## Decoding: words written out from the encodings -/

/-- R86, R87: op 1, addr 1, kind 1, cat 04, plen 1, pdata[0] 00 (vector B1). -/
theorem test_decode_build :
    decode .hostOp ([0b00000001, 0x01, 0b00000001, 0x04, 0x01, 0x00] ++ List.replicate 11 0) =
      .ok (.build (hostReq 1 .inquiry 0x04 [0x00])) := by decide

/-- R87: flen 3 and the frame bytes `90 41 FF` (vector P1). -/
theorem test_decode_parse :
    decode .hostOp ([0b00000010, 0b00000011, 0x90, 0x41, 0xFF] ++ List.replicate 13 0) =
      .ok (.parse 3 (framePort [0x90, 0x41, 0xFF])) := by decide

theorem test_decode_nextFrame : decode .hostOp [0b00000011] = .ok .nextFrame := by decide

/-- Program P2: op 4, addr 1, kind 0, cat 04, plen 5, pdata 47 00 01 0B 0C. -/
theorem test_decode_transact :
    decode .hostOp ([0b00000100, 0x01, 0b00000000, 0x04, 0x05, 0x47, 0x00, 0x01, 0x0B, 0x0C] ++ List.replicate 7 0) =
      .ok (.transact zoomReq) := by decide

theorem test_decode_reset : decode .hostOp [0b00000101] = .ok .reset := by decide

theorem test_decode_reservedOps :
    decode .hostOp [0b00000000] = .ok .reservedOp0 ∧ decode .hostOp [0b00000110] = .ok .reservedOp6 ∧
      decode .hostOp [0b00000111] = .ok .reservedOp7 := by decide

/-- R72: byte 0 is 10000 and the address; R73: Command is 01. -/
theorem test_decode_reqCommand :
    decode .request [0b10000111, 0b00000001, 0x06, 0x01, 0xFF] = .ok (.reqCommand ⟨7, 0x06, [0x01]⟩) := by decide

/-- L1.1: `81 09 04 00 FF`. -/
theorem test_decode_reqInquiry :
    decode .request [0b10000001, 0b00001001, 0x04, 0x00, 0xFF] = .ok (.reqInquiry ⟨1, 0x04, [0x00]⟩) := by decide

/-- R79: type 4; vector A6's socket 15. -/
theorem test_decode_rplAck :
    decode .reply [0b01110000, 0b01001111, 0xFF] = .ok (.rplAck ⟨7, 0, 15, []⟩) := by decide

/-- R79, R80: type 5; vector P3, with vector A4's low nibble. -/
theorem test_decode_rplCompletion :
    decode .reply [0b10011010, 0b01010000, 0x02, 0xFF] = .ok (.rplCompletion ⟨9, 0xA, 0, [0x02]⟩) := by decide

/-- R79, R81: type 6; vector P5. -/
theorem test_decode_rplError :
    decode .reply [0b10010000, 0b01100001, 0x41, 0xFF] = .ok (.rplError ⟨9, 0, 1, [0x41]⟩) := by decide
/-- R84: the thirteen reserved types, each by its high nibble of byte 1. -/
theorem test_decode_rplReservedTypes :
    decode .reply [0x90, 0b00000101, 0xFF] = .ok (.rplReservedType0 ⟨9, 0, 5, []⟩) ∧
    decode .reply [0x90, 0b00010101, 0xFF] = .ok (.rplReservedType1 ⟨9, 0, 5, []⟩) ∧
    decode .reply [0x90, 0b00100101, 0xFF] = .ok (.rplReservedType2 ⟨9, 0, 5, []⟩) ∧
    decode .reply [0x90, 0b00110101, 0xFF] = .ok (.rplReservedType3 ⟨9, 0, 5, []⟩) ∧
    decode .reply [0x90, 0b01110101, 0xFF] = .ok (.rplReservedType7 ⟨9, 0, 5, []⟩) ∧
    decode .reply [0x90, 0b10000101, 0xFF] = .ok (.rplReservedType8 ⟨9, 0, 5, []⟩) ∧
    decode .reply [0x90, 0b10010101, 0xFF] = .ok (.rplReservedType9 ⟨9, 0, 5, []⟩) ∧
    decode .reply [0x90, 0b10100101, 0xFF] = .ok (.rplReservedTypeA ⟨9, 0, 5, []⟩) ∧
    decode .reply [0x90, 0b10110101, 0xFF] = .ok (.rplReservedTypeB ⟨9, 0, 5, []⟩) ∧
    decode .reply [0x90, 0b11000101, 0xFF] = .ok (.rplReservedTypeC ⟨9, 0, 5, []⟩) ∧
    decode .reply [0x90, 0b11010101, 0xFF] = .ok (.rplReservedTypeD ⟨9, 0, 5, []⟩) ∧
    decode .reply [0x90, 0b11100101, 0xFF] = .ok (.rplReservedTypeE ⟨9, 0, 5, []⟩) ∧
    decode .reply [0x90, 0b11110101, 0xFF] = .ok (.rplReservedTypeF ⟨9, 0, 5, []⟩) := by decide

/-- R81, L1.12. -/
theorem test_decode_errorCodes :
    decode .errorCode [0x01] = .ok .errMsgLength ∧ decode .errorCode [0x02] = .ok .errSyntax ∧
      decode .errorCode [0x03] = .ok .errFullBuffer ∧ decode .errorCode [0x04] = .ok .errCanceled ∧
      decode .errorCode [0x05] = .ok .errNoSocket ∧ decode .errorCode [0b01000001] = .ok .errNotExecutable := by decide

/-- R82, vector P20: codes next to the named ones. -/
theorem test_decode_errOther :
    decode .errorCode [0x00] = .ok (.errOther 0x00) ∧ decode .errorCode [0x06] = .ok (.errOther 0x06) ∧
      decode .errorCode [0x40] = .ok (.errOther 0x40) ∧ decode .errorCode [0x42] = .ok (.errOther 0x42) ∧
      decode .errorCode [0xFF] = .ok (.errOther 0xFF) := by decide

/-- R74. -/
theorem test_decode_categories :
    decode .category [0x04] = .ok .catCamera1 ∧ decode .category [0x06] = .ok .catPanTilter ∧
      decode .category [0x07] = .reject .notACategory := by decide

/-- L1.13: Power.get, Zoom.get and PanTilt.get at address 1. -/
theorem test_decode_inquiries :
    decode .pseudo [0x81, 0x09, 0x04, 0x00, 0xFF] = .ok (.powerGet 1) ∧
      decode .pseudo [0x81, 0x09, 0x04, 0x47, 0xFF] = .ok (.zoomGet 1) ∧
      decode .pseudo [0x81, 0x09, 0x06, 0x12, 0xFF] = .ok (.panTiltGet 1) := by decide

/-- R93. -/
theorem test_decode_powerSet : decode .pseudo [0x82, 0x01, 0x04, 0x00, 0x5A, 0xFF] = .ok (.powerSet 2 0x5A) := by decide

/-- L1.6. -/
theorem test_decode_zoomSet : decode .pseudo zoomFrame = .ok (.zoomSet 1 0x01BC) := by decide

/-- L1.8: PanTilt.set_absolute(180, 50). -/
theorem test_decode_panTiltSetAbsolute :
    decode .pseudo [0x81, 0x01, 0x06, 0x02, 0x01, 0x00, 0x00, 0x00, 0x0B, 0x04, 0x00, 0x00, 0x03, 0x02, 0xFF] =
      .ok (.panTiltSetAbsolute 1 180 50) := by decide

/-- L1.13: PanTilt.set_relative(1, -1). -/
theorem test_decode_panTiltSetRelative :
    decode .pseudo [0x81, 0x01, 0x06, 0x03, 0x01, 0x00, 0x00, 0x00, 0x00, 0x01, 0x0F, 0x0F, 0x0F, 0x0F, 0xFF] =
      .ok (.panTiltSetRelative 1 1 (-1)) := by decide

/-- R99. -/
theorem test_decode_panTiltJogOrStop :
    decode .pseudo [0x81, 0x01, 0x06, 0x11, 0x22, 0x33, 0x44, 0x55, 0xFF] =
      .ok (.panTiltJogOrStop 1 0x11 0x22 0x33 0x44 0x55) := by decide

/-- R100. -/
theorem test_decode_presets :
    decode .pseudo [0x81, 0x01, 0x04, 0x3F, 0x02, 0x0F, 0xFF] = .ok (.presetsSetResetRecall 1 0x02 0x0F) := by decide

/-- R70, R72, R73, R84: bytes that are no request. -/
theorem test_decode_request_rejects :
    decode .request [0x88, 0x01, 0x04, 0xFF] = .reject .notARequest ∧
      decode .request [0x81, 0x02, 0x04, 0xFF] = .reject .notARequest ∧
      decode .request [0x81, 0x01, 0x04, 0x00] = .reject .notTerminated ∧
      decode .request [0x81, 0x01, 0xFF] = .reject .frameTooShort ∧
      decode .request ([0x81, 0x01, 0x04] ++ sixteen.take 13 ++ [0xFF]) = .reject .frameTooLong := by decide

/-- R70, R76: bytes that are no reply. -/
theorem test_decode_reply_rejects :
    decode .reply [0x90, 0xFF] = .reject .frameTooShort ∧
      decode .reply [0x90, 0x41, 0x00] = .reject .notTerminated ∧
      decode .reply [0x90, 0x41, 0xFF, 0xFF] = .reject .innerTerminator ∧
      decode .reply ([0x90, 0x50] ++ sixteen.take 14 ++ [0xFF]) = .reject .frameTooLong := by decide

/-- R86, R87: host-port bytes that the port's fields cannot present. -/
theorem test_decode_hostOp_rejects :
    decode .hostOp [] = .reject .noBytes ∧ decode .hostOp [8] = .reject .selectorPadding ∧
      decode .hostOp [1, 0, 0, 4, 0] = .reject .truncatedOperands ∧
      decode .hostOp ([4, 0, 2, 4, 0] ++ List.replicate 12 0) = .reject .kindPadding ∧
      decode .hostOp ([2, 32] ++ sixteen) = .reject .flenPadding := by decide

/-- Requests that no Command Layer operation sends. -/
theorem test_decode_pseudo_rejects :
    decode .pseudo [0x81, 0x09, 0x06, 0x00, 0xFF] = .reject .notACommand ∧
      decode .pseudo [0x81, 0x01, 0x04, 0x3F, 0x02, 0x10, 0xFF] = .reject .notACommand ∧
      decode .pseudo [0x81, 0x01, 0x04, 0x47, 0x10, 0x00, 0x00, 0x00, 0xFF] = .reject .notACommand := by decide

/-- R83: header words, and a selector word. -/
theorem test_decodeTableWord :
    decodeTableWord 8 3 = some .nextFrame ∧ decodeTableWord 16 0x8101 = some (.reqCommand ⟨1, 0, []⟩) ∧
      decodeTableWord 16 0x9041 = some (.rplAck ⟨9, 0, 1, []⟩) ∧
      decodeTableWord 16 0x8000 = some (.rplReservedType0 ⟨8, 0, 0, []⟩) := by decide

/-- A placed word is what the next step runs. -/
theorem test_withFetchWord :
    (nextState? (step (State.reset.withFetchWord 8 5))).map (·.host) = some [] ∧
      (nextState? (step (State.reset.withFetchWord 16 0x8109))).map (·.seq) = some .rx1 ∧
      (nextState? (step (State.reset.withFetchWord 16 0x9041))).map (·.seq) = some .rx2 := by decide

/-! ## Single steps on the spec's vectors -/

/-- B2: the shortest request. -/
theorem test_build_shortest :
    result (exec (.build (hostReq 0 .command 0x04 [])) State.reset) = some (0x00, 0, some [0x80, 0x01, 0x04, 0xFF]) := by
  decide

/-- B4: the longest request. -/
theorem test_build_longest :
    result (exec (.build (hostReq 2 .command 0x04 (sixteen.take 12))) State.reset) =
      some (0x00, 0, some ([0x82, 0x01, 0x04] ++ sixteen.take 12 ++ [0xFF])) := by decide

/-- B5, B6, B7: FAULT entries, the payload length first. -/
theorem test_build_faults :
    ending (exec (.build ⟨1, .command, 4, 13, port []⟩) State.reset) = some ⟨0x40, 13, 7, false, 1⟩ ∧
      ending (exec (.build (hostReq 8 .command 4 [])) State.reset) = some ⟨0x41, 8, 7, false, 2⟩ ∧
      ending (exec (.build ⟨9, .command, 4, 20, port []⟩) State.reset) = some ⟨0x40, 20, 7, false, 1⟩ := by decide

/-- P1, P3, P5: the three classes. -/
theorem test_parse_classes :
    parsedAs [0x90, 0x41, 0xFF] = some ⟨0, 0, 0, some 9, some 1, some []⟩ ∧
      parsedAs [0x90, 0x50, 0x02, 0xFF] = some ⟨0, 0, 1, some 9, some 0, some [0x02]⟩ ∧
      parsedAs [0x90, 0x61, 0x41, 0xFF] = some ⟨0, 0x41, 2, some 9, some 1, some []⟩ := by decide

/-- P7, P8, P11, P14, P15: the corners of PARSE. -/
theorem test_parse_corners :
    parsedAs [0x90, 0x60, 0xFF] = some ⟨0, 0xFF, 2, some 9, some 0, some []⟩ ∧
      parsedAs [0x90, 0x60, 0x41, 0x22, 0xFF] = some ⟨0, 0x41, 2, some 9, some 0, some []⟩ ∧
      parsedAs [0x90, 0xFF] = some ⟨0x10, 2, 3, none, none, some []⟩ ∧
      parsedAs [0x90, 0xF5, 0xFF] = some ⟨0x11, 0xF, 3, none, none, some []⟩ ∧
      parsedAs [0x81, 0x09, 0x04, 0x00, 0xFF] = some ⟨0x11, 0, 3, none, none, some []⟩ := by decide

/-- B9, P17, P18: the refusals. -/
theorem test_refusals :
    refusal? (exec (.build (hostReq 1 .command 0x07 [])) State.reset) = some .categoryNotAdmitted ∧
      refusal? (exec (.parse 4 (framePort [0x90, 0x50, 0x02, 0x03])) State.reset) = some .notTerminated ∧
      refusal? (exec (.parse 17 sixteen) State.reset) = some .frameTooLongForPort := by decide

/-- A1, A3, A5, A6: the accessors. -/
theorem test_accessors :
    addressOf [0x90, 0x41, 0xFF] = .address 1 ∧ addressOf [0xF0, 0x5C, 0xFF] = .address 7 ∧
      addressOf [0x10, 0x50, 0xFF] = .addressUnderflow 1 ∧ addressOf [0x70, 0x4F, 0xFF] = .addressUnderflow 7 ∧
      socketOf [0xF0, 0x5C, 0xFF] = 12 := by decide

/-- NEXT_FRAME enters RXF. -/
theorem test_nextFrame_enters : (nextState? (exec .nextFrame State.reset)).map (·.seq.code) = some 4 := by decide

/-- N1: two frames held, the first is returned and the second kept. -/
theorem test_nextFrame_returns :
    (nextState? (step (at' .rxf [0x90, 0x41, 0xFF, 0x90, 0x51, 0xFF] []))).map
        (fun t => (t.seq.code, t.resultBytes, t.rxCnt, held t)) =
      some (0, some [0x90, 0x41, 0xFF], 3, some [0x90, 0x51, 0xFF]) := by decide

/-- N13: the read asks for 6, and the full buffer then fails and keeps its bytes (N6). -/
theorem test_bufferFull :
    (nextState? (step (at' .rxf (sixteen.take 10) [.bytes (sixteen.drop 10)]))).map
        (fun t => (t.rxCnt, t.issued, held t)) = some (16, [.read 6], some sixteen) ∧
      (nextState? (step (at' .rxf sixteen [.bytes [0xFF]]))).map
        (fun t => (t.seq.code, t.resCode.code, t.rxCnt, t.suspect, t.issued)) = some (0, 0x20, 16, false, []) := by decide

/-- N10, N12: a read error and a zero read. -/
theorem test_readErrors :
    ending (step (at' .rxf [0x90, 0x41] [.rerr .timeout])) = some ⟨0x30, 1, 0, false, 0⟩ ∧
      ending (step (at' .rx1 [] [.zero])) = some ⟨0x30, 2, 0, true, 0⟩ := by decide

/-- The build phase of P2: the frame is latched. -/
theorem test_transact_latches :
    (nextState? (exec (.transact zoomReq) State.reset)).map (fun t => (t.seq.code, t.txLen, txBytes t, t.issued)) =
      some (1, some 9, some zoomFrame, []) := by decide

/-- T15: a precondition fault makes no write. -/
theorem test_transact_faults :
    (nextState? (exec (.transact ⟨1, .command, 4, 13, port []⟩) (at' .idle [] [.wrote 4]))).map
      (fun t => (t.resCode.code, t.seq.code, t.script, t.issued)) = some (0x40, 7, [.wrote 4], []) := by decide

/-- T8 and a whole write. -/
theorem test_reqCommand :
    ending (step (txState zoomFrame [.wrote 3])) = some ⟨0x30, 3, 0, true, 0⟩ ∧
      (nextState? (step (txState zoomFrame [.wrote 9]))).map (fun t => (t.seq.code, t.issued)) =
        some (2, [.write zoomFrame]) := by decide

/-- T9 on an inquiry. -/
theorem test_reqInquiry :
    ending (exec (.reqInquiry ⟨1, 4, [0]⟩) (txState [0x81, 0x09, 0x04, 0x00, 0xFF] [.werr .io])) =
      some ⟨0x30, 0, 0, true, 0⟩ := by decide

/-- T1 and T5: the first Ack and a second. -/
theorem test_rplAck :
    (nextState? (step (at' .rx1 [0x90, 0x41, 0xFF] []))).map (fun t => (t.seq.code, t.rxCnt)) = some (3, 0) ∧
      ending (step (at' .rx2 [0x90, 0x42, 0xFF] [])) = some ⟨0x12, 4, 0, true, 0⟩ := by decide

/-- T14 and T16. -/
theorem test_rplCompletion :
    result (step (at' .rx1 [0x10, 0x51, 0xFF] [])) = some (0, 0, some []) ∧
      result (step (at' .rx2 [0x90, 0x51, 0x00, 0x01, 0x0B, 0x0C, 0xFF] [])) =
        some (0, 0, some [0x00, 0x01, 0x0B, 0x0C]) := by decide

/-- T3 and T4. -/
theorem test_rplError :
    ending (step (at' .rx1 [0x90, 0x61, 0x02, 0xFF] [])) = some ⟨0x01, 0x02, 0, false, 0⟩ ∧
      ending (step (at' .rx2 [0x90, 0x61, 0x41, 0xFF] [])) = some ⟨0x01, 0x41, 0, false, 0⟩ := by decide

/-- T6: a reserved type as the second reply. -/
theorem test_rplReservedType7 : ending (step (at' .rx2 [0x90, 0x71, 0xFF] [])) = some ⟨0x11, 7, 0, true, 0⟩ := by decide

/-- R115: the other reserved types as the first reply. -/
theorem test_rplReservedTypes :
    ending (exec (.rplReservedType0 ackReply) (at' .rx1 [] [])) = some ⟨0x11, 0, 0, true, 0⟩ ∧
    ending (exec (.rplReservedType1 ackReply) (at' .rx1 [] [])) = some ⟨0x11, 1, 0, true, 0⟩ ∧
    ending (exec (.rplReservedType2 ackReply) (at' .rx1 [] [])) = some ⟨0x11, 2, 0, true, 0⟩ ∧
    ending (exec (.rplReservedType3 ackReply) (at' .rx1 [] [])) = some ⟨0x11, 3, 0, true, 0⟩ ∧
    ending (exec (.rplReservedType8 ackReply) (at' .rx1 [] [])) = some ⟨0x11, 8, 0, true, 0⟩ ∧
    ending (exec (.rplReservedType9 ackReply) (at' .rx1 [] [])) = some ⟨0x11, 9, 0, true, 0⟩ ∧
    ending (exec (.rplReservedTypeA ackReply) (at' .rx1 [] [])) = some ⟨0x11, 10, 0, true, 0⟩ ∧
    ending (exec (.rplReservedTypeB ackReply) (at' .rx1 [] [])) = some ⟨0x11, 11, 0, true, 0⟩ ∧
    ending (exec (.rplReservedTypeC ackReply) (at' .rx1 [] [])) = some ⟨0x11, 12, 0, true, 0⟩ ∧
    ending (exec (.rplReservedTypeD ackReply) (at' .rx1 [] [])) = some ⟨0x11, 13, 0, true, 0⟩ ∧
    ending (exec (.rplReservedTypeE ackReply) (at' .rx1 [] [])) = some ⟨0x11, 14, 0, true, 0⟩ ∧
    ending (exec (.rplReservedTypeF ackReply) (at' .rx1 [] [])) = some ⟨0x11, 15, 0, true, 0⟩ := by decide

/-- T13 and T7: replies too short to classify. -/
theorem test_shortReplies :
    ending (step (at' .rx1 [0xFF] [])) = some ⟨0x10, 1, 0, true, 0⟩ ∧
      ending (step (at' .rx2 [0x41, 0xFF] [])) = some ⟨0x10, 2, 0, true, 0⟩ := by decide

/-- L1.12 in an exchange. -/
theorem test_errorCodes :
    ending (exec .errMsgLength (at' .rx1 [] [])) = some ⟨0x01, 0x01, 0, false, 0⟩ ∧
      ending (exec .errSyntax (at' .rx1 [] [])) = some ⟨0x01, 0x02, 0, false, 0⟩ ∧
      ending (exec .errFullBuffer (at' .rx1 [] [])) = some ⟨0x01, 0x03, 0, false, 0⟩ ∧
      ending (exec .errCanceled (at' .rx2 [] [])) = some ⟨0x01, 0x04, 0, false, 0⟩ ∧
      ending (exec .errNoSocket (at' .rx2 [] [])) = some ⟨0x01, 0x05, 0, false, 0⟩ ∧
      ending (exec .errNotExecutable (at' .rx2 [] [])) = some ⟨0x01, 0x41, 0, false, 0⟩ ∧
      ending (exec (.errOther 0x07) (at' .rx2 [] [])) = some ⟨0x01, 0x07, 0, false, 0⟩ := by decide

/-- R74: the admitted categories pass. -/
theorem test_categories :
    nextState? (exec .catCamera1 State.reset) = some State.reset ∧
      nextState? (exec .catPanTilter State.reset) = some State.reset := by decide

/-- The frame that an operation latches from reset. -/
def latched (i : Instr) : Option (List Byte) := (nextState? (exec i State.reset)).bind txBytes

/-- L1.13, L1.6 and R93. -/
theorem test_cameraOperations :
    latched (.powerGet 1) = some [0x81, 0x09, 0x04, 0x00, 0xFF] ∧
      latched (.powerSet 1 0x5A) = some [0x81, 0x01, 0x04, 0x00, 0x5A, 0xFF] ∧
      latched (.zoomGet 1) = some [0x81, 0x09, 0x04, 0x47, 0xFF] ∧
      latched (.zoomSet 1 0x01BC) = some zoomFrame ∧
      latched (.presetsSetResetRecall 1 0x02 0x13) = some [0x81, 0x01, 0x04, 0x3F, 0x02, 0x03, 0xFF] := by decide

/-- L1.13, L1.8 and R99. -/
theorem test_panTiltOperations :
    latched (.panTiltGet 1) = some [0x81, 0x09, 0x06, 0x12, 0xFF] ∧
      latched (.panTiltSetAbsolute 1 180 50) =
        some [0x81, 0x01, 0x06, 0x02, 0x01, 0x00, 0x00, 0x00, 0x0B, 0x04, 0x00, 0x00, 0x03, 0x02, 0xFF] ∧
      latched (.panTiltSetRelative 1 1 (-1)) =
        some [0x81, 0x01, 0x06, 0x03, 0x01, 0x00, 0x00, 0x00, 0x00, 0x01, 0x0F, 0x0F, 0x0F, 0x0F, 0xFF] ∧
      latched (.panTiltJogOrStop 1 1 2 3 4 5) = some [0x81, 0x01, 0x06, 0x01, 0x02, 0x03, 0x04, 0x05, 0xFF] := by decide

/-- L1.7, L1.11 and R102: the consumer's checks. -/
theorem test_consumerChecks :
    checkPower [0x02] = .value .on ∧ checkPower [0x04] = .invalidValue ∧ checkPower [] = .protocolViolation ∧
      checkZoom [0x00, 0x01, 0x0B, 0x0C] = .value 0x01BC ∧
      checkPanTilt [0x00, 0x00, 0x0B, 0x04, 0x0F, 0x0F, 0x0F, 0x0F] = .value (180, -1) := by decide

/-- C1 and C2. -/
theorem test_reservedOps :
    ending (exec .reservedOp0 State.reset) = some ⟨0x51, 0, 0, false, 0⟩ ∧
      ending (exec .reservedOp6 State.reset) = some ⟨0x51, 6, 0, false, 0⟩ ∧
      ending (exec .reservedOp7 State.reset) = some ⟨0x51, 7, 0, false, 0⟩ := by decide

/-- C3 and C4. -/
theorem test_faulted :
    ending (exec (.parse 3 (framePort [0x90, 0x41, 0xFF])) faultState) = some ⟨0x50, 2, 7, false, 2⟩ ∧
      ending (exec .reservedOp7 faultState) = some ⟨0x50, 2, 7, false, 2⟩ := by decide

/-- C5. -/
theorem test_reset :
    nextState? (exec .reset { at' .fault [0x90, 0x51, 0xFF] [] with suspect := true, faultCause := .payloadTooLong }) =
      some State.reset := by decide

/-- R204, R226: TX is no waiting state: a write without an answer is no step. -/
theorem test_unansweredWrite : refusal? (step (txState zoomFrame [])) = some .writeUnanswered := by
  decide

/-- R252: a program of one exchange ends; with its script one answer short it is stuck, and has no observation. -/
theorem test_runProgram :
    (match runProgram 8 ((⟨[.command zoomFrame], [.wrote 9, .bytes [0x90, 0x51, 0xFF]]⟩ : Program).launch State.reset) with
      | .ended o => o.frames == [zoomFrame] && o.status.resCode.code == 0x00
      | _ => false) = true ∧
    runProgram 8 ((⟨[.command zoomFrame], [.wrote 9]⟩ : Program).launch State.reset) = .stuck := by decide

/-- R240: power-on reset in the middle of a receive. -/
theorem test_powerOn :
    (nextState? (step { at' .rx1 [0x90] [] with powerOn := true })).map (fun t => (t.seq.code, t.rxCnt, t.resCode.code)) =
      some (0, 0, 0xFE) := by decide

/-- R7, R74: a machine that extends `CATEGORY_CODES` by 0x07 builds frames of that category, and the default one does
not. -/
theorem test_extendedCategory :
    (nextState? (exec (.build (hostReq 1 .command 0x07 [])) extended)).bind State.resultBytes =
      some [0x81, 0x01, 0x07, 0xFF] ∧
    refusal? (exec (.build (hostReq 1 .command 0x07 [])) State.reset) = some .categoryNotAdmitted := by decide

/-! ## Witnesses: states and operands that meet the hypotheses of each statement -/

theorem next_of_any {o : Out} (p : State → Bool) (h : (nextState? o).any p = true) : ∃ t, o = .next t ∧ p t = true := by
  cases o with
  | next t => exact ⟨t, rfl, h⟩
  | fault r => cases h
  | refused r => cases h

theorem holds_at' (q : Seq) (bs : List Byte) (script : List ChanAnswer) (h : bs.length ≤ 16) :
    holds (at' q bs script) bs := ⟨h, rfl, rfl⟩

theorem holds_issuing (w : HostWord) (bs : List Byte) (script : List ChanAnswer) (h : bs.length ≤ 16) :
    holds (issuing w bs script) bs := ⟨h, rfl, rfl⟩

theorem isFrame_of (g : List Byte) (h : g.length ≤ 15) (n : (0xFF : Byte) ∉ g) : isFrame (g ++ [0xFF]) :=
  ⟨by simp [Config.maxFrame]; omega, g, rfl, n⟩

/-- A frame of one byte, and one of sixteen (vectors N4 and N7). -/
theorem isFrame_one : isFrame [0xFF] := isFrame_of [] (by decide) (by decide)

theorem isFrame_sixteen : isFrame (sixteen.take 15 ++ [0xFF]) := isFrame_of _ (by decide) (by decide)

/-- States at rest, and a busy one, whose registers are the clean ones. -/
theorem inv_at' (q : Seq) (bs : List Byte) (script : List ChanAnswer) (h : bs.length ≤ 16)
    (hq : q ≠ .fault) (ht : q ≠ .tx) (hr : q.receiving = false → bs.length < 16) : Inv (at' q bs script) where
  rx := ⟨bs, holds_at' q bs script h, fun e c => by
    have := hr e
    simp only [Config.bufCap] at c
    omega⟩
  cause := by simp [at', State.reset, hq]
  txCells := rfl
  txLen := by simp [at', State.reset]
  txRequest := fun e => absurd e ht
  resCells := rfl
  resLen := by simp [at', State.reset]
  resBytes := ⟨[], rfl⟩
  detail := rfl

theorem witness_ResetOpRestoresTheResetState :
    atRest (at' .idle [0x90] []) ∧ atRest faultState := ⟨.inl rfl, .inr rfl⟩

theorem witness_ReservedSelectorsAnswerIllegalOp : (at' .idle [0x90] []).seq = .idle := rfl

theorem witness_FaultAnswersFaultedToEveryOtherOperation :
    formatOf (.transact zoomReq) = .hostOp ∧ (.transact zoomReq : Instr) ≠ .reset ∧ formatOf (.zoomGet 1) = .pseudo ∧
      faultState.seq = .fault := by decide

theorem witness_HostHasNoMoveWhileBusy :
    (txState zoomFrame [.wrote 9]).seq = .tx ∧ (at' .rx1 [] []).seq = .rx1 ∧ (at' .rx2 [] []).seq = .rx2 ∧
      (at' .rxf [] []).seq = .rxf ∧ (txState zoomFrame [.wrote 9]).powerOn = false ∧
      (∃ t, step (txState zoomFrame [.wrote 9]) = .next t ∧ (t.seq == .rx1) = true) ∧
      formatOf .reset = .hostOp ∧ formatOf (.zoomGet 1) = .pseudo :=
  ⟨rfl, rfl, rfl, rfl, rfl, next_of_any _ (by decide), rfl, rfl⟩

/-- The shortest and the longest payload, the least and the greatest address, both categories, and one that a machine
adds. -/
theorem witness_BuildWritesTheRequestFrame :
    (0x04 : Byte) ∈ State.reset.categoryCodes ∧ (0x06 : Byte) ∈ State.reset.categoryCodes ∧
      (0x07 : Byte) ∈ extended.categoryCodes ∧ extended.seq = .idle ∧
      (hostReq 0 .command 0x04 []).plen.toNat ≤ 12 ∧ (hostReq 0 .command 0x04 []).addr.toNat ≤ 7 ∧
      (hostReq 0 .command 0x04 []).pdata.length = 12 ∧ (hostReq 7 .inquiry 0x06 (sixteen.take 12)).plen.toNat = 12 ∧
      (hostReq 7 .inquiry 0x06 (sixteen.take 12)).addr.toNat = 7 ∧
      (hostReq 7 .inquiry 0x06 (sixteen.take 12)).pdata.length = 12 ∧ State.reset.seq = .idle := by decide

/-- A payload length of 13 for the first case; 12 with address 8 for the second; a step in FAULT that stays and one that
leaves. -/
theorem witness_FaultEntryHoldsUntilReset :
    State.reset.seq = .idle ∧ (0x04 : Byte) ∈ State.reset.categoryCodes ∧ (0x06 : Byte) ∈ State.reset.categoryCodes ∧
      12 < (⟨8, .command, 4, 13, port []⟩ : HostReq).plen.toNat ∧
      (hostReq 8 .command 6 (sixteen.take 12)).plen.toNat ≤ 12 ∧
      7 < (hostReq 8 .command 6 (sixteen.take 12)).addr.toNat ∧
      (∃ t, step { faultState with host := [.op [3]] } = .next t ∧ (t.seq == .fault) = true) ∧
      (∃ t, step { faultState with host := [.op [5]] } = .next t ∧ (t.seq == .idle) = true) ∧
      faultState.seq = .fault ∧ faultState.powerOn = false :=
  ⟨rfl, by decide, by decide, by decide, by decide, by decide, next_of_any _ (by decide), next_of_any _ (by decide),
    rfl, rfl⟩

/-- A category next to the admitted ones, in the default machine and in one that extends them; `flen` 17; an unterminated frame of 3 bytes and one of 16. -/
theorem witness_TheThreeRefusals :
    State.reset.seq = .idle ∧ (0x05 : Byte) ∉ State.reset.categoryCodes ∧ extended.seq = .idle ∧
      (0x05 : Byte) ∉ extended.categoryCodes ∧ 16 < (17 : BitVec 5).toNat ∧
      3 ≤ (3 : BitVec 5).toNat ∧ (3 : BitVec 5).toNat ≤ 16 ∧
      (framePort [0x90, 0x41])[(3 : BitVec 5).toNat - 1]? ≠ some 0xFF ∧ (framePort [0x90, 0x41]).length = 16 ∧
      (16 : BitVec 5).toNat ≤ 16 ∧ sixteen[(16 : BitVec 5).toNat - 1]? ≠ some 0xFF ∧ sixteen.length = 16 := by decide

/-- The shortest frame and the longest, and a byte 1 of each type. -/
theorem witness_ParseReportsTheReply :
    State.reset.seq = .idle ∧ (3 : BitVec 5).toNat = ([] : List Byte).length + 3 ∧
      ([] : List Byte).length + 3 + (sixteen.take 13).length = 16 ∧ (16 : BitVec 5).toNat = (sixteen.take 13).length + 3 ∧
      (sixteen.take 13).length + 3 + ([] : List Byte).length = 16 ∧ hi4 0x41 = 4 ∧ hi4 0x50 = 5 ∧ hi4 0x6F = 6 := by
  decide

/-- Two bytes for the first clause; three and sixteen with a reserved type for the second. -/
theorem witness_ParseErrorsWriteOnlyCodeAndDetail :
    State.reset.seq = .idle ∧ (2 : BitVec 5).toNat < 3 ∧ (framePort [0x90, 0xFF]).length = 16 ∧
      (framePort [0x90, 0x70, 0xFF])[(3 : BitVec 5).toNat - 1]? = some 0xFF ∧
      (framePort [0x90, 0x70, 0xFF])[1]? = some 0x70 ∧ (framePort [0x90, 0x70, 0xFF]).length = 16 ∧
      (sixteen.take 15 ++ [0xFF])[(16 : BitVec 5).toNat - 1]? = some 0xFF ∧
      (sixteen.take 15 ++ [0xFF])[1]? = some 0x01 ∧ (sixteen.take 15 ++ [(0xFF : Byte)]).length = 16 ∧
      hi4 0x70 = 7 ∧ hi4 0x01 = 0 := by decide

/-- BUILD in both of its outcomes, and PARSE. -/
theorem witness_CodecOperationsTouchNoOtherUnit :
    (∃ t, exec (.build zoomReq) State.reset = .next t ∧ (t.seq == .idle) = true) ∧
      (∃ t, exec (.build (hostReq 8 .command 4 [])) State.reset = .next t ∧ (t.seq == .fault) = true) ∧
      (∃ t, exec (.parse 2 sixteen) State.reset = .next t ∧ (t.seq == .idle) = true) ∧
      (at' .idle [0x90] []).seq = .idle ∧ (at' .idle [0x90] []).extraCategories = State.reset.extraCategories :=
  ⟨next_of_any _ (by decide), next_of_any _ (by decide), next_of_any _ (by decide), rfl, rfl⟩

theorem witness_ReplyRoundTrip :
    (sixteen.take 13).length ≤ 13 ∧ (0xFF : Byte) ∉ sixteen.take 13 ∧ (0xFE : Byte) ≠ 0xFF ∧
      ([joinNibbles (8 + (7 : BitVec 3).setWidth 4) 0xF, joinNibbles 0x6 0xF, 0xFE, 0xFF] : List Byte) =
        [0xFF, 0x6F, 0xFE, 0xFF] := by decide

theorem witness_RequestRoundTrip :
    (sixteen.take 12).length ≤ 12 ∧ (0xFF : Byte) ∉ sixteen.take 12 ∧
      enc 1 .inquiry 0x04 [0x00] = enc 1 .inquiry 0x04 [0x00] := by decide

/-- The least nibble with an address, and the greatest without; PARSE's frame as in vector A5. -/
theorem witness_AddressAccessorNeverWraps :
    8 ≤ (hi4 0x80).toNat ∧ (hi4 0x7F).toNat < 8 ∧ (3 : BitVec 5).toNat = ([] : List Byte).length + 3 ∧
      ([] : List Byte).length + 3 + (sixteen.take 13).length = 16 ∧ hi4 0x50 = 5 ∧ State.reset.seq = .idle := by decide

theorem witness_DecodeOfEncode :
    (Instr.transact zoomReq).wf = true ∧ (Instr.parse 31 sixteen).wf = true ∧ (Instr.reqCommand ⟨7, 4, [0xFF]⟩).wf = true ∧
      (Instr.rplCompletion ⟨0xF, 0xE, 0xF, sixteen.take 13⟩).wf = true ∧ (Instr.errOther 0xFF).wf = true ∧
      (Instr.presetsSetResetRecall 7 0xFF 0x0F).wf = true := by decide

theorem witness_DecodeAcceptsOnlyEncodings :
    decode .hostOp [0x03, 0x00] = .ok .nextFrame ∧ decode .reply [0x90, 0x41, 0xFF] = .ok (.rplAck ackReply) ∧
      decode .errorCode [0x06] = .ok (.errOther 0x06) := by decide

/-- A host operation at rest, a request in TX, and a reply of 3 bytes that fills the rest of the buffer with more. -/
theorem witness_StepRunsTheDecodedInstruction :
    (issuing (.op [3]) [] []).seq = .idle ∧ (issuing (.op [3]) [] []).host = .op [3] :: [] ∧
      decodeHostWord (.op [3]) = .ok .nextFrame ∧ (issuing (.op [3]) [] []).powerOn = false ∧
      (txState zoomFrame []).seq = .tx ∧ txBytes (txState zoomFrame []) = some zoomFrame ∧
      decode .request zoomFrame = .ok (.reqCommand ⟨1, 4, [0x47, 0x00, 0x01, 0x0B, 0x0C]⟩) ∧
      (at' .rx2 ([0x90, 0x41, 0xFF] ++ sixteen.take 13) []).seq = .rx2 ∧ isFrame ([0x90, 0x41] ++ [0xFF]) ∧
      holds (at' .rx2 ([0x90, 0x41, 0xFF] ++ sixteen.take 13) []) ([0x90, 0x41, 0xFF] ++ sixteen.take 13) ∧
      decode .reply [0x90, 0x41, 0xFF] = .ok (.rplAck ackReply) :=
  ⟨rfl, rfl, by decide, rfl, rfl, by decide, by decide, rfl, isFrame_of _ (by decide) (by decide),
    holds_at' _ _ _ (by decide), by decide⟩

/-- A one-byte frame with the largest remainder (vector N8), and a sixteen-byte frame with none (N7). -/
theorem witness_NextFrameReturnsAHeldFrame :
    State.reset.seq = .idle ∧ (at' .rxf ([0xFF] ++ sixteen.take 15) []).seq = .rxf ∧
      (at' .rxf ([0xFF] ++ sixteen.take 15) []).powerOn = false ∧
      isFrame [0xFF] ∧ holds (at' .rxf ([0xFF] ++ sixteen.take 15) []) ([0xFF] ++ sixteen.take 15) ∧
      isFrame (sixteen.take 15 ++ [0xFF]) ∧
      holds (at' .rxf ((sixteen.take 15 ++ [0xFF]) ++ []) []) ((sixteen.take 15 ++ [0xFF]) ++ []) :=
  ⟨rfl, rfl, rfl, isFrame_one, holds_at' _ _ _ (by decide), isFrame_sixteen, holds_at' _ _ _ (by decide)⟩

/-- A step that goes on collecting, one that returns a frame, and one that fails. -/
theorem witness_NextFrameKeepsTheFlags :
    (∃ t, step (at' .rxf [0x90] [.bytes [0x41]]) = .next t ∧ (t.seq == .rxf) = true) ∧
      (∃ t, step (at' .rxf [0x90, 0x41, 0xFF] []) = .next t ∧ (t.seq == .idle) = true) ∧
      (∃ t, step (at' .rxf [0x90] [.zero]) = .next t ∧ (t.seq == .idle) = true) ∧
      (at' .rxf [0x90] [.zero]).powerOn = false :=
  ⟨next_of_any _ (by decide), next_of_any _ (by decide), next_of_any _ (by decide), rfl⟩

theorem witness_ExtractTakesTheFirstFrame :
    (0xFF : Byte) ∉ ([] : List Byte) ∧ holds (at' .rxf ([] ++ 0xFF :: [0x90, 0x41, 0xFF]) []) ([] ++ 0xFF :: [0x90, 0x41, 0xFF]) ∧
      (0xFF : Byte) ∉ sixteen.take 15 ∧ holds (at' .rxf (sixteen.take 15 ++ 0xFF :: []) []) (sixteen.take 15 ++ 0xFF :: []) :=
  ⟨by decide, holds_at' _ _ _ (by decide), by decide, holds_at' _ _ _ (by decide)⟩

/-- The largest read into an empty buffer, and one byte into the last cell. -/
theorem witness_ReadAppendsTheBytes :
    (at' .rxf [] [.bytes sixteen]).seq.receiving = true ∧ holds (at' .rxf [] [.bytes sixteen]) [] ∧
      sixteen.length ≤ 16 - (at' .rxf [] [.bytes sixteen]).rxCnt ∧
      holds (at' .rx1 (sixteen.take 15) [.bytes [0xFF]]) (sixteen.take 15) ∧ (0xFF : Byte) ∉ sixteen.take 15 ∧
      ([0xFF] : List Byte).length ≤ 16 - (at' .rx1 (sixteen.take 15) [.bytes [0xFF]]).rxCnt ∧
      (at' .rx1 (sixteen.take 15) [.bytes [0xFF]]).seq.receiving = true ∧
      (at' .rx1 (sixteen.take 15) [.bytes [0xFF]]).powerOn = false :=
  ⟨rfl, holds_at' _ _ _ (by decide), by decide, holds_at' _ _ _ (by decide), by decide, by decide, rfl, rfl⟩

theorem witness_InterruptedReadsAreRetried :
    (at' .rx2 (sixteen.take 15) [.interrupted, .interrupted, .zero]).seq.receiving = true ∧
      (at' .rx2 (sixteen.take 15) [.interrupted, .interrupted, .zero]).powerOn = false ∧
      holds (at' .rx2 (sixteen.take 15) [.interrupted, .interrupted, .zero]) (sixteen.take 15) ∧
      (0xFF : Byte) ∉ sixteen.take 15 ∧ (sixteen.take 15).length < 16 ∧
      (at' .rx2 (sixteen.take 15) [.interrupted, .interrupted, .zero]).script =
        List.replicate 2 .interrupted ++ [.zero] :=
  ⟨rfl, rfl, holds_at' _ _ _ (by decide), by decide, by decide, rfl⟩

/-- One state for each of the five answers; the last needs no value of the free detail byte. -/
theorem witness_ReadErrorsEndWithTransport :
    (∀ a ∈ ([.zero, .rerr .io, .rerr .timeout, .rerr .closed, .rerr (.other 7)] : List ChanAnswer),
      (at' .rxf (sixteen.take 15) [a]).seq.receiving = true ∧ (at' .rxf (sixteen.take 15) [a]).powerOn = false ∧
        holds (at' .rxf (sixteen.take 15) [a]) (sixteen.take 15) ∧ (at' .rxf (sixteen.take 15) [a]).script = a :: []) ∧
      (0xFF : Byte) ∉ sixteen.take 15 ∧ (sixteen.take 15).length < 16 ∧
      (∃ n, ChanAnswer.rerr (.other 7) = .rerr (.other n) ∧ chanErrDetail (.other 7) = chanErrDetail (.other n)) :=
  ⟨fun _ _ => ⟨rfl, rfl, holds_at' _ _ _ (by decide), rfl⟩, by decide, by decide, 7, rfl, rfl⟩

/-- Vector N5, and a full buffer whose last byte is the terminator (N7). -/
theorem witness_BufferFullDiscardsNothing :
    sixteen.length = 16 ∧ (0xFF : Byte) ∉ sixteen ∧ holds (at' .rx1 sixteen []) sixteen ∧
      (at' .rx1 sixteen []).seq.receiving = true ∧ (at' .rx1 sixteen []).powerOn = false ∧
      (sixteen.take 15 ++ 0xFF :: []).length = 16 ∧ (0xFF : Byte) ∉ sixteen.take 15 ∧
      holds (at' .rxf (sixteen.take 15 ++ 0xFF :: []) []) (sixteen.take 15 ++ 0xFF :: []) :=
  ⟨rfl, by decide, holds_at' _ _ _ (by decide), rfl, rfl, rfl, by decide, holds_at' _ _ _ (by decide)⟩

/-- Vector N6. -/
theorem witness_BufferFullIsSticky :
    sixteen.length = 16 ∧ (0xFF : Byte) ∉ sixteen ∧ holds (issuing (.op [0x03]) sixteen []) sixteen ∧
      (issuing (.op [0x03]) sixteen []).seq = .idle ∧ (issuing (.op [0x03]) sixteen []).powerOn = false ∧
      (issuing (.op [0x03]) sixteen []).host = List.replicate (0 + 1) (.op [0x03]) :=
  ⟨rfl, by decide, holds_issuing _ _ _ (by decide), rfl, rfl, rfl⟩

/-- L1.10: the stream `90 41 FF 90 51 FF` in three reads with an interruption. -/
theorem witness_FragmentationInvariance :
    legalFrom [] [.bytes [0x90], .interrupted, .bytes [0x41, 0xFF, 0x90], .bytes [0x51, 0xFF]] ∧
      scriptBytes [.bytes [0x90], .interrupted, .bytes [0x41, 0xFF, 0x90], .bytes [0x51, 0xFF]] =
        [[0x90, 0x41, 0xFF], [0x90, 0x51, 0xFF]].flatten ∧
      (∀ f ∈ ([[0x90, 0x41, 0xFF], [0x90, 0x51, 0xFF]] : List (List Byte)), isFrame f) ∧
      holds (at' .idle [] [.bytes [0x90], .interrupted, .bytes [0x41, 0xFF, 0x90], .bytes [0x51, 0xFF]]) [] ∧
      (at' .idle [] []).seq = .idle ∧ (at' .idle [] []).powerOn = false := by
  refine ⟨by simp [legalFrom, afterLastTerm, Config.term, Config.bufCap], by decide, ?_, holds_at' _ _ _ (by decide), rfl,
    rfl⟩
  simp only [List.mem_cons, List.not_mem_nil, or_false, forall_eq_or_imp, forall_eq]
  exact ⟨isFrame_of [0x90, 0x41] (by decide) (by decide), isFrame_of [0x90, 0x51] (by decide) (by decide)⟩

/-- A call at the last free cell. -/
theorem witness_ReadsPerCallAreBounded :
    Inv (at' .rxf (sixteen.take 15) [.bytes [0xFF]]) ∧ (at' .rxf (sixteen.take 15) [.bytes [0xFF]]).seq = .rxf ∧
      (at' .rxf (sixteen.take 15) [.bytes [0xFF]]).host = [] ∧
      (at' .rxf (sixteen.take 15) [.bytes [0xFF]]).powerOn = false ∧
      (∃ t, runSteps 1 (at' .rxf (sixteen.take 15) [.bytes [0xFF]]) = .next t ∧ (t.rxCnt == 16) = true) :=
  ⟨inv_at' _ _ _ (by decide) (by decide) (by decide) (by decide), rfl, rfl, rfl, next_of_any _ (by decide)⟩

/-- A step that takes a frame, and one that reads. -/
theorem witness_ReceiveStepsKeepTheStream :
    holds (at' .rx1 [0x90, 0x41, 0xFF, 0x90] []) [0x90, 0x41, 0xFF, 0x90] ∧
      (∃ t, step (at' .rx1 [0x90, 0x41, 0xFF, 0x90] []) = .next t ∧ (t.rxCnt == 1) = true) ∧
      holds (at' .rx1 [0x90] [.bytes [0x41]]) [0x90] ∧
      (∃ t, step (at' .rx1 [0x90] [.bytes [0x41]]) = .next t ∧ (t.rxCnt == 2) = true) ∧
      (at' .rx1 [0x90] [.bytes [0x41]]).seq.receiving = true ∧ (at' .rx1 [0x90] [.bytes [0x41]]).powerOn = false :=
  ⟨holds_at' _ _ _ (by decide), next_of_any _ (by decide), holds_at' _ _ _ (by decide), next_of_any _ (by decide), rfl, rfl⟩

/-- The least and the greatest operands; BUILD in FAULT; BUILD refused. -/
theorem witness_TransactLatchesTheRequest :
    State.reset.seq = .idle ∧ zoomReq.cat ∈ State.reset.categoryCodes ∧ zoomReq.plen.toNat ≤ 12 ∧ zoomReq.addr.toNat ≤ 7 ∧
      zoomReq.pdata.length = 12 ∧ (hostReq 7 .inquiry 0x06 (sixteen.take 12)).plen.toNat = 12 ∧
      (hostReq 7 .inquiry 0x06 (sixteen.take 12)).addr.toNat = 7 ∧
      (∃ t, exec (.build (hostReq 8 .command 4 [])) State.reset = .next t ∧ (t.seq == .fault) = true) ∧
      exec (.build (hostReq 1 .command 0x07 [])) State.reset = .refused .categoryNotAdmitted :=
  ⟨rfl, by decide, by decide, by decide, by decide, by decide, by decide, next_of_any _ (by decide), rfl⟩

theorem witness_CommandLayerOperationsExpandToTransact : (at' .idle [0x90] []).seq = .idle := rfl

/-- A whole write, partial writes of no byte and of all but one, and an error. -/
theorem witness_TransmitWritesTheFrameOnce :
    (txState zoomFrame [.wrote 9]).seq = .tx ∧
      enc 1 .command 0x04 [0x47, 0x00, 0x01, 0x0B, 0x0C] = zoomFrame ∧
      (txState zoomFrame [.wrote 9]).script = .wrote zoomFrame.length :: [] ∧
      8 < zoomFrame.length ∧ (txState zoomFrame [.wrote 8]).script = .wrote 8 :: [] ∧ 0 < zoomFrame.length ∧
      (txState zoomFrame [.werr .closed]).script = .werr .closed :: [] := by decide

theorem witness_FirstReplyByClass : (at' .rx1 [] []).seq = .rx1 := rfl

theorem witness_SecondReplyByClass : (at' .rx2 [] []).seq = .rx2 := rfl

theorem witness_ReservedReplyTypesEndTheExchange : (at' .rx1 [] []).seq = .rx1 ∧ (at' .rx2 [] []).seq = .rx2 := ⟨rfl, rfl⟩

/-- A reply of one byte and one of two, with more held behind it. -/
theorem witness_ShortRepliesEndTheExchange :
    (at' .rx1 ([0xFF] ++ sixteen.take 15) []).seq = .rx1 ∧ (at' .rx1 ([0xFF] ++ sixteen.take 15) []).powerOn = false ∧
      isFrame [0xFF] ∧ holds (at' .rx1 ([0xFF] ++ sixteen.take 15) []) ([0xFF] ++ sixteen.take 15) ∧
      isFrame ([0x41] ++ [0xFF]) ∧ ([0x41, 0xFF] : List Byte).length < 3 ∧
      holds (at' .rx2 ([0x41, 0xFF] ++ []) []) ([0x41, 0xFF] ++ []) :=
  ⟨rfl, rfl, isFrame_one, holds_at' _ _ _ (by decide), isFrame_of _ (by decide) (by decide), by decide,
    holds_at' _ _ _ (by decide)⟩

theorem witness_ErrorAndCategoryCodes :
    (at' .rx1 [] []).seq = .rx1 ∧ (at' .rx2 [] []).seq = .rx2 ∧
      decode .errorCode [Reply.code errorReply] = .ok .errSyntax ∧
      decode .errorCode [Reply.code ackReply] = .ok (.errOther 0xFF) := by decide

theorem witness_FrameRowsElsewhere :
    State.reset.seq ≠ .tx ∧ faultState.seq = .fault ∧ (txState zoomFrame []).seq = .tx ∧ (at' .rxf [] []).seq = .rxf ∧
      (at' .rxf [] []).seq ≠ .rx1 ∧ (at' .rxf [] []).seq ≠ .rx2 ∧ decode .errorCode [0x41] = .ok .errNotExecutable := by
  decide

theorem witness_ExchangeIgnoresAddressAndSocket :
    (at' .rx1 [] []).seq = .rx1 ∧ (⟨1, 0xA, 0xF, [0x02]⟩ : Reply).body = (⟨9, 0, 0, [0x02]⟩ : Reply).body := by decide

theorem witness_ReplyHandlingIgnoresTheRequest :
    (at' .rx1 [0x90, 0x41, 0xFF] []).seq.receiving = true ∧ (at' .rx1 [0x90, 0x41, 0xFF] []).powerOn = false := ⟨rfl, rfl⟩

/-- The hypotheses that the exchange statements share: a program whose next operation is a TRANSACT that the block
accepts, at rest, with these held bytes. -/
def exchangePremises (s : State) (q : HostReq) (hs : List HostWord) (bs : List Byte) : Prop :=
  s.seq = .idle ∧ s.powerOn = false ∧ holds s bs ∧ q.wf = true ∧ q.cat ∈ s.categoryCodes ∧ q.plen.toNat ≤ 12 ∧
    q.addr.toNat ≤ 7 ∧ s.host = .op (encode (.transact q)) :: hs

/-- The Zoom.set exchange (L1.6), with held bytes and a channel script. -/
def zoomExchange (bs : List Byte) (script : List ChanAnswer) : State :=
  issuing (.op (encode (.transact zoomReq))) bs script

theorem zoomExchange_premises (bs : List Byte) (script : List ChanAnswer) (h : bs.length ≤ 16) :
    exchangePremises (zoomExchange bs script) zoomReq [] bs ∧
      (zoomExchange bs script).script = script ∧ 4 + zoomReq.plen.toNat = 9 :=
  ⟨⟨rfl, rfl, holds_issuing _ _ _ h, by decide, mem_categoryCodes _ (.inl rfl), by decide,
    by decide, rfl⟩, rfl, by decide⟩

/-- T2; and a reply that fills the buffer. -/
theorem witness_ExchangeWithCompletionReturnsThePayload :
    ∀ r ∈ ([doneReply, ⟨9, 0, 1, sixteen.take 13⟩] : List Reply), Reply.wf 0x5 r = true ∧
      exchangePremises (zoomExchange [] [.wrote 9, .bytes (replyFrame 0x5 r)]) zoomReq [] [] ∧
      (zoomExchange [] [.wrote 9, .bytes (replyFrame 0x5 r)]).script =
        .wrote (4 + zoomReq.plen.toNat) :: .bytes (replyFrame 0x5 r) :: [] := by
  intro r hr
  refine ⟨?_, (zoomExchange_premises _ _ (by decide)).1, rfl⟩
  revert r
  decide

/-- T1 and T12; the two replies of the one read may fill the buffer. -/
theorem witness_ExchangeWithAckThenCompletion :
    Reply.wf 0x4 ackReply = true ∧ Reply.wf 0x5 doneReply = true ∧ Reply.wf 0x5 ⟨9, 0, 1, sixteen.take 10⟩ = true ∧
      ackReply.body.length + (⟨9, 0, 1, sixteen.take 10⟩ : Reply).body.length ≤ 10 ∧
      exchangePremises (zoomExchange [] [.wrote 9, .bytes (replyFrame 0x4 ackReply),
        .bytes (replyFrame 0x5 doneReply)]) zoomReq [] [] ∧
      exchangePremises (zoomExchange [] [.wrote 9,
        .bytes (replyFrame 0x4 ackReply ++ replyFrame 0x5 ⟨9, 0, 1, sixteen.take 10⟩)]) zoomReq [] [] ∧
      4 + zoomReq.plen.toNat = 9 :=
  ⟨by decide, by decide, by decide, by decide, (zoomExchange_premises _ _ (by decide)).1,
    (zoomExchange_premises _ _ (by decide)).1, by decide⟩

/-- T3 and T4, and an Error frame of length 3, whose code is `FF` (vector P7). -/
theorem witness_ExchangeWithDeviceError :
    Reply.wf 0x4 ackReply = true ∧ Reply.wf 0x6 errorReply = true ∧ Reply.wf 0x6 ackReply = true ∧
      Reply.code ackReply = 0xFF ∧
      exchangePremises (zoomExchange [] [.wrote 9, .bytes (replyFrame 0x6 errorReply)]) zoomReq [] [] ∧
      exchangePremises (zoomExchange [] [.wrote 9, .bytes (replyFrame 0x4 ackReply),
        .bytes (replyFrame 0x6 errorReply)]) zoomReq [] [] ∧ 4 + zoomReq.plen.toNat = 9 :=
  ⟨by decide, by decide, by decide, by decide, (zoomExchange_premises _ _ (by decide)).1,
    (zoomExchange_premises _ _ (by decide)).1, by decide⟩

/-- T11. -/
theorem witness_FailedExchangeRollsNothingBack :
    Reply.wf 0x4 ackReply = true ∧
      exchangePremises (zoomExchange [] [.wrote 9, .bytes (replyFrame 0x4 ackReply), .rerr .timeout]) zoomReq [] [] ∧
      4 + zoomReq.plen.toNat = 9 :=
  ⟨by decide, (zoomExchange_premises _ _ (by decide)).1, by decide⟩

/-- Program P4's second operation: `90 51 FF` is held. -/
theorem witness_StaleReplyAnswersTheNextRequest :
    Reply.wf 0x5 doneReply = true ∧
      exchangePremises (zoomExchange (replyFrame 0x5 doneReply ++ []) [.wrote 9]) zoomReq []
        (replyFrame 0x5 doneReply ++ []) ∧ 4 + zoomReq.plen.toNat = 9 :=
  ⟨by decide, (zoomExchange_premises _ _ (by decide)).1, by decide⟩

/-- A suspect session stays so, and is cleared; a failing exchange marks it; one that succeeds does not. -/
theorem witness_SuspectIsStickyAndMarksFailedExchanges :
    (∃ t, step { issuing (.op [3]) [] [] with suspect := true } = .next t ∧ t.suspect = true) ∧
      (∃ t, step { issuing (.op [5]) [] [] with suspect := true } = .next t ∧ (!t.suspect) = true) ∧
      (∃ t, step (at' .rx1 [0xFF] []) = .next t ∧ (t.suspect && t.seq == .idle) = true) ∧
      (∃ t, step (at' .rx1 [0x90, 0x51, 0xFF] []) = .next t ∧ (!t.suspect && t.seq == .idle) = true) ∧
      (at' .rx1 [0xFF] []).powerOn = false :=
  ⟨next_of_any (fun t => t.suspect) (by decide), next_of_any _ (by decide), next_of_any _ (by decide),
    next_of_any _ (by decide), rfl⟩

/-- Moves between two different sequencer states, one from each of the six. -/
theorem witness_SequencerMoves :
    (∃ t, step (issuing (.op [3]) [] []) = .next t ∧ (t.seq == .rxf) = true) ∧
      (∃ t, step { faultState with host := [.op [5]] } = .next t ∧ (t.seq == .idle) = true) ∧
      (∃ t, step (txState zoomFrame [.wrote 9]) = .next t ∧ (t.seq == .rx1) = true) ∧
      (∃ t, step (at' .rx1 [0x90, 0x41, 0xFF] []) = .next t ∧ (t.seq == .rx2) = true) ∧
      (∃ t, step (at' .rx2 [0x90, 0x51, 0xFF] []) = .next t ∧ (t.seq == .idle) = true) ∧
      (∃ t, step (at' .rxf [0x90, 0x51, 0xFF] []) = .next t ∧ (t.seq == .idle) = true) ∧
      (at' .rxf [0x90, 0x51, 0xFF] []).powerOn = false :=
  ⟨next_of_any _ (by decide), next_of_any _ (by decide), next_of_any _ (by decide), next_of_any _ (by decide),
    next_of_any _ (by decide), next_of_any _ (by decide), rfl⟩

/-- A step from TX, and a read. -/
theorem witness_TransactionsOfAStep :
    (∃ t, step (txState zoomFrame [.wrote 3]) = .next t ∧ (t.seq != .tx) = true) ∧
      (∃ t, step (at' .rx1 [0x90] [.interrupted]) = .next t ∧ (t.issued == [.read 15]) = true) ∧
      (txState zoomFrame [.wrote 3]).seq = .tx ∧ (txState zoomFrame [.wrote 3]).powerOn = false :=
  ⟨next_of_any _ (by decide), next_of_any _ (by decide), rfl, rfl⟩

theorem witness_HeldBytesAreHidden : (at' .idle [0x90] []).seq = .idle := rfl

/-- A receive step from a state of the invariant that reset does not reach at once. -/
theorem witness_EveryStepKeepsTheInvariant :
    Inv (at' .rx2 [0x90, 0x51, 0xFF] []) ∧ ∃ t, step (at' .rx2 [0x90, 0x51, 0xFF] []) = .next t ∧ (t.seq == .idle) = true :=
  ⟨inv_at' _ _ _ (by decide) (by decide) (by decide) (by decide), next_of_any _ (by decide)⟩

theorem witness_ReachableStatesMeetTheInvariantAndNeverFault :
    Reachable { State.reset with host := [.op [3]] } :=
  .move _ _ (.reset []) (.host State.reset (.op [3]))

/-- A channel that answers at last, with interruptions between: every write whole, and every second read with the end
of the stream. -/
def patient : Channel where
  onWrite _ f := .wrote f.length
  onRead n _ := if n % 2 = 0 then some .interrupted else some .zero

/-- A channel that interrupts every read. -/
def neverReady : Channel where
  onWrite _ f := .wrote f.length
  onRead _ _ := some .interrupted

/-- For the first clause a fair channel, and a state in the middle of an exchange; for the second an unfair one, with the
buffer empty and with one free cell. -/
theorem witness_FairChannelEndsEveryOperation :
    patient.legal ∧ patient.fair ∧ Inv (at' .rx2 [0x90] []) ∧ (at' .rx2 [0x90] []).powerOn = false ∧
      (at' .rx2 [0x90] []).script = [] ∧
      (∀ m max, neverReady.onRead m max = some .interrupted) ∧ (at' .rxf [] []).seq.receiving = true ∧
      holds (at' .rxf [] []) [] ∧ (0xFF : Byte) ∉ sixteen.take 15 ∧ (sixteen.take 15).length < 16 ∧
      holds (at' .rx1 (sixteen.take 15) []) (sixteen.take 15) ∧ (at' .rx1 (sixteen.take 15) []).seq.receiving = true := by
  refine ⟨⟨fun _ _ => Nat.le_refl _, fun n max a h => ?_⟩, fun n max => ⟨2 * n + 1, .zero, by omega, ?_, by simp⟩,
    inv_at' _ _ _ (by decide) (by decide) (by decide) (by decide), rfl, rfl, fun _ _ => rfl, rfl,
    holds_at' _ _ _ (by decide), by decide, by decide, holds_at' _ _ _ (by decide), rfl⟩
  · simp only [patient] at h
    split at h <;> cases h <;> exact trivial
  · simp [patient]

/-- A launch state of the invariant with held bytes, an ended state, and a stuck one. -/
theorem witness_RunsOfProgramsComeToAnEnd :
    Inv (at' .idle [0x90] []) ∧ atRest (at' .idle [0x90] []) ∧ (at' .idle [0x90] []).powerOn = false ∧
      ended (at' .idle [0x90] []) ∧ stuck (at' .rx1 [0x90] []) ∧
      runProgram 0 (at' .idle [0x90] []) = .ended (at' .idle [0x90] []).observe :=
  ⟨inv_at' _ _ _ (by decide) (by decide) (by decide) (by decide), .inl rfl, rfl, by decide, by decide, by decide⟩

end Sys2Proof.Machine
end

section
/-!
The reset state (spec 10_state.md, R35): the cells a reset leaves without a value, and the registers' reset values.
-/
namespace Sys2Proof.Machine

@[simp] theorem noCells_length : noCells.length = 16 := List.length_replicate

/-- A cell of a buffer without values exists and holds none (R21, R35). -/
theorem noCells_getElem?_of_lt {i : Nat} (hi : i < 16) : noCells[i]? = some none :=
  List.getElem?_replicate_of_lt hi

/-- Settles O1: the scalar registers are read off the reset state, and the three buffers are `noCells`. -/
theorem resetStateHoldsTheSpecValues : Obligations.ResetStateHoldsTheSpecValues := by
  have cells : ∀ i, i < 16 → noCells[i]? = some none := fun _ => noCells_getElem?_of_lt
  exact ⟨rfl, cells, noCells_length, rfl,
    cells, noCells_length, rfl,
    rfl, rfl, rfl,
    cells, noCells_length, rfl, rfl, rfl,
    rfl, rfl⟩

end Sys2Proof.Machine
end

section
/-!
The error-code map (spec 30_encoding.md, R81, R82): which codes are named, and that a kind determines its code.
-/
namespace Sys2Proof.Machine

/-- The codes of the error table that have a kind of their own (R81). -/
def namedErrorCodes : List Byte := [0x01, 0x02, 0x03, 0x04, 0x05, 0x41]

theorem mem_namedErrorCodes {c : Byte} :
    c ∈ namedErrorCodes ↔ c = 0x01 ∨ c = 0x02 ∨ c = 0x03 ∨ c = 0x04 ∨ c = 0x05 ∨ c = 0x41 := by
  simp only [namedErrorCodes, List.mem_cons, List.not_mem_nil, or_false]

/-- A named code maps to a named kind, never to `Other` (R82). -/
theorem errorKindOf_ne_other_of_named {c : Byte} (d : Byte) (hc : c ∈ namedErrorCodes) :
    errorKindOf c ≠ .other d := by
  rcases mem_namedErrorCodes.1 hc with rfl | rfl | rfl | rfl | rfl | rfl <;> exact nofun

/-- A code outside the table maps to `Other` with the code itself (R82). -/
theorem errorKindOf_of_not_named {c : Byte} (hc : c ∉ namedErrorCodes) : errorKindOf c = .other c := by
  simp only [mem_namedErrorCodes, not_or] at hc
  simp only [errorKindOf, hc, if_false]

/-- The kind determines the code, because `errorCodeOf` reads it back (R81). -/
theorem errorKindOf_injective : Function.Injective errorKindOf :=
  Function.LeftInverse.injective errorCodeOf_errorKindOf

theorem errorKindOf_eq_other_iff (c d : Byte) :
    errorKindOf c = .other d ↔ c = d ∧ c ∉ namedErrorCodes := by
  constructor
  · intro h
    have hcode : errorCodeOf (errorKindOf c) = d := congrArg errorCodeOf h
    exact ⟨(errorCodeOf_errorKindOf c).symm.trans hcode, fun hc => errorKindOf_ne_other_of_named d hc h⟩
  · rintro ⟨rfl, hc⟩
    exact errorKindOf_of_not_named hc

/-- Settles O18: the named codes by evaluation, `Other` by `errorKindOf_eq_other_iff`, and injectivity from the left
inverse `errorCodeOf`. -/
theorem errorKindMapIsTotalAndInjective : Obligations.ErrorKindMapIsTotalAndInjective :=
  ⟨rfl, rfl, rfl, rfl, rfl, rfl, errorKindOf_eq_other_iff, fun _ _ h => errorKindOf_injective h⟩

end Sys2Proof.Machine
end

section
/-!
The reserved selectors in IDLE (spec 30_encoding.md, R88).
-/
namespace Sys2Proof.Machine

/-- An operation that issues `illegalOp op` in IDLE ends with ILLEGAL_OP and `op`, and writes the two result registers
only (R88, R211). -/
theorem issue_illegalOp_idle {s : State} (hq : s.seq = .idle) (op : Byte) :
    ∃ t, issue s (.next (illegalOp op s)) = .next t ∧ t.resCode.code = 0x51 ∧ t.resDetail = op ∧
      t = { s with resCode := t.resCode, resDetail := t.resDetail } :=
  ⟨illegalOp op s, issue_idle _ hq, rfl, illegalOp_resDetail s op, rfl⟩

/-- Settles O5: each reserved row issues `illegalOp` with its own selector. -/
theorem reservedSelectorsAnswerIllegalOp : Obligations.ReservedSelectorsAnswerIllegalOp :=
  fun _ hq => ⟨issue_illegalOp_idle hq 0, issue_illegalOp_idle hq 6, issue_illegalOp_idle hq 7⟩

end Sys2Proof.Machine
end

section
/-!
What PARSE and BUILD read and answer in IDLE (spec 40_codec.md, R110 to R119): the bytes presented on the port as a
reply frame, and the answer as an update of the state that the operands alone determine.
-/
namespace Sys2Proof.Machine

/-! ## The frame that PARSE reads -/

/-- Two bytes, a body and the terminator are a reply frame, of the type in the high nibble of byte 1 (R76 to R79). -/
theorem bytes_eq_replyFrame (b0 b1 : Byte) (g : List Byte) :
    b0 :: b1 :: g ++ [Config.term] = replyFrame (hi4 b1) ⟨hi4 b0, lo4 b0, lo4 b1, g⟩ := by
  simp [replyFrame]

/-- The first `k + 3` presented bytes are a reply frame when the last of them is the terminator. -/
theorem take_eq_replyFrame {f : List Byte} {k : Nat} {b1 : Byte} (h1 : f[1]? = some b1)
    (hk : f[k + 2]? = some Config.term) : ∃ r, f.take (k + 3) = replyFrame (hi4 b1) r := by
  match f with
  | [] => cases h1
  | [_] => cases h1
  | b0 :: b :: g =>
    cases h1
    have hg : g[k]? = some Config.term := hk
    refine ⟨⟨hi4 b0, lo4 b0, lo4 b1, g.take k⟩, ?_⟩
    rw [← bytes_eq_replyFrame, List.take_succ_cons, List.take_succ_cons, List.take_add_one, hg]
    rfl

/-- The presented bytes up to the terminator, without the padding behind it. -/
theorem take_length_append_term (g pad : List Byte) :
    (g ++ Config.term :: pad).take (g.length + 1) = g ++ [Config.term] := by
  simp [List.take_append]

/-! ## The answers of PARSE -/

theorem exec_parse_idle {n : BitVec 5} {s : State} (f : List Byte) (hq : s.seq = .idle) (hn : n.toNat ≤ 16) :
    exec (.parse n f) s = parseResult (f.take n.toNat) s :=
  (issue_idle _ hq).trans (if_neg (Nat.not_lt.2 hn))

/-- A frame of fewer than 3 bytes is too short whatever its bytes are (R114). -/
theorem classify_of_length_lt {f : List Byte} (h : f.length < 3) : classify f = .tooShort f.length := by
  match f with
  | [] => rfl
  | [_] => rfl
  | [_, _] => rfl
  | _ :: _ :: _ :: _ => exact absurd h (by simp)

theorem parseResult_of_length_lt {f : List Byte} (s : State) (h : f.length < 3) :
    parseResult f s = .next (setError .protoFrameTooShort (BitVec.ofNat 8 f.length) s) := by
  simp only [parseResult, classify_of_length_lt h]

/-- A reply of a reserved type is reported with its type nibble (R115). -/
theorem parseResult_replyFrame_reserved {t : Nibble} (r : Reply) (s : State) (h4 : t ≠ 4) (h5 : t ≠ 5) (h6 : t ≠ 6) :
    parseResult (replyFrame t r) s = .next (setError .protoUnknownReplyType (t.setWidth 8) s) := by
  simp only [parseResult, classify_replyFrame, h4, h5, h6, if_false]

/-- An Ack, a Completion and an Error are accepted, whatever their address nibble is (R116 to R119). -/
theorem parseResult_accepted (b0 b1 : Byte) (g : List Byte) (s : State) (ht : hi4 b1 = 4 ∨ hi4 b1 = 5 ∨ hi4 b1 = 6) :
    ∃ c p d, parseResult (b0 :: b1 :: g ++ [Config.term]) s =
      .next (parsed (b0 :: b1 :: g ++ [Config.term]) c p d s) := by
  rw [bytes_eq_replyFrame]
  rcases ht with h | h | h
  · exact ⟨.ack, none, 0, by simp [parseResult, classify_replyFrame, h]⟩
  · exact ⟨.completion, some g, 0, by simp [parseResult, classify_replyFrame, h]⟩
  · exact ⟨.error, none, g.headD Config.term, by simp [parseResult, classify_replyFrame, h, Reply.code]⟩

/-! ## The address accessor (R119) -/

theorem addressOfNibble_of_le {n : Nibble} (h : 8 ≤ n.toNat) :
    ∃ a, addressOfNibble n = .address a ∧ a.toNat + 8 = n.toNat := by
  refine ⟨BitVec.ofNat 3 (n.toNat - 8), if_pos h, ?_⟩
  have := n.isLt
  rw [BitVec.toNat_ofNat]
  omega

theorem addressOfNibble_of_lt {n : Nibble} (h : n.toNat < 8) : addressOfNibble n = .addressUnderflow n :=
  if_neg (Nat.not_le.2 h)

/-- PARSE stores the raw nibble of byte 0 (R119). -/
theorem parsed_resAddr_cons (b0 : Byte) (f : List Byte) (c : ResClass) (p : Option (List Byte)) (d : Byte) (s : State) :
    (parsed (b0 :: f) c p d s).resAddr = some (hi4 b0) := by
  rw [parsed_resAddr, List.getD_cons_zero]

/-! ## The frame that BUILD writes -/

/-- An address in range is byte 0 of the request frame with its top bit set; the kind picks byte 1 (R71 to R73). -/
theorem requestFrame_eq {q : HostReq} (ha : q.addr.toNat ≤ 7) :
    requestFrame q = [0x80 ||| q.addr, if q.kind = .command then 0x01 else 0x09, q.cat] ++
      q.pdata.take q.plen.toNat ++ [0xFF] := by
  have hk : q.kind.code = if q.kind = .command then 0x01 else 0x09 := by cases q.kind <;> rfl
  rw [requestFrame, enc, header_of_addr ha, hk]
  rfl

theorem requestFrame_length {q : HostReq} (hw : q.pdata.length = 12) (hp : q.plen.toNat ≤ 12) :
    (requestFrame q).length = 4 + q.plen.toNat := by
  rw [requestFrame, enc_length, payloadRead_length hw hp]

/-- The result bytes after a successful end are the bytes it wrote (R27). -/
@[simp] theorem setOk_resultBytes (bs : List Byte) (s : State) : (setOk bs s).resultBytes = some bs :=
  readCells_overlay bs s.resData

@[simp] theorem parsed_resultBytes (f : List Byte) (c : ResClass) (p : Option (List Byte)) (d : Byte) (s : State) :
    (parsed f c p d s).resultBytes = some (p.getD []) :=
  readCells_overlay _ s.resData

theorem exec_build_ok {q : HostReq} {s : State} (hq : s.seq = .idle) (hc : q.cat ∈ s.categoryCodes)
    (hp : q.plen.toNat ≤ 12) (ha : q.addr.toNat ≤ 7) :
    exec (.build q) s = .next (setOk (requestFrame q) s) :=
  (issue_idle _ hq).trans (buildPhase_ok _ hc hp ha)

/-! ## BUILD and PARSE as updates of the state (R122) -/

/-- The updates by which BUILD and PARSE answer. None of them reads a register to decide what it writes. -/
inductive CodecUpdate : HostOp → (State → State) → Prop where
  | fault (c : FaultCause) (v : Byte) : c ≠ .none → CodecUpdate .build (enterFault c v)
  | built (f : List Byte) : CodecUpdate .build (setOk f)
  | error (c : ResCode) (d : Byte) : c ≠ .ok → CodecUpdate .parse (setError c d)
  | parsed (f : List Byte) (c : ResClass) (p : Option (List Byte)) (d : Byte) :
      CodecUpdate .parse (parsed f c p d)

/-- The registers of SR and PS and the channel's part are not written (R122). -/
theorem CodecUpdate.frame {op : HostOp} {u : State → State} (hu : CodecUpdate op u) (s : State) :
    (u s).rxBuf = s.rxBuf ∧ (u s).rxCnt = s.rxCnt ∧ (u s).txFrame = s.txFrame ∧ (u s).txLen = s.txLen ∧
      (u s).suspect = s.suspect ∧ (u s).script = s.script ∧ (u s).issued = s.issued := by
  cases hu <;> exact ⟨rfl, rfl, rfl, rfl, rfl, rfl, rfl⟩

/-- Only BUILD's FAULT entry writes `seq` and `fault_cause` (R216). -/
theorem CodecUpdate.seq {op : HostOp} {u : State → State} (hu : CodecUpdate op u) (s : State) :
    ((u s).seq = s.seq ∧ (u s).faultCause = s.faultCause) ∨
      (op = .build ∧ (u s).seq = .fault ∧ (u s).faultCause ≠ .none) := by
  cases hu with
  | fault c v hc => exact .inr ⟨rfl, rfl, hc⟩
  | built f => exact .inl ⟨rfl, rfl⟩
  | error c d hc => exact .inl ⟨rfl, rfl⟩
  | parsed f c p d => exact .inl ⟨rfl, rfl⟩

theorem faultResCode_ne_ok (c : FaultCause) : faultResCode c ≠ .ok := by
  cases c <;> exact nofun

/-- After a result that is not OK the host may read the code and the detail alone (R27). -/
theorem resultView_of_ne_ok (op : HostOp) {s : State} (h : s.resCode ≠ .ok) :
    s.resultView op = ⟨s.resCode, s.resDetail, none, none, none, none⟩ := by
  simp [State.resultView, h]

/-- What the host may read after the update does not depend on the state before it (R122). -/
theorem CodecUpdate.resultView {op : HostOp} {u : State → State} (hu : CodecUpdate op u) (s s' : State) :
    (u s).resultView op = (u s').resultView op := by
  cases hu with
  | fault c v hc =>
    rw [resultView_of_ne_ok _ (faultResCode_ne_ok c), resultView_of_ne_ok _ (faultResCode_ne_ok c)]
    rfl
  | built f => simp [State.resultView]
  | error c d hc =>
    rw [resultView_of_ne_ok _ hc, resultView_of_ne_ok _ hc]
    rfl
  | parsed f c p d => simp [State.resultView]

theorem categoryCodes_congr {s s' : State} (h : s'.extraCategories = s.extraCategories) :
    s'.categoryCodes = s.categoryCodes :=
  congrArg (Config.defaultCategoryCodes ++ ·) h

/-- The operands of BUILD fix one update, which every state in IDLE that admits the category answers with (R110). -/
theorem exec_build_update (q : HostReq) :
    ∃ u, CodecUpdate .build u ∧
      ∀ s : State, s.seq = .idle → q.cat ∈ s.categoryCodes → exec (.build q) s = .next (u s) := by
  by_cases hp : q.plen.toNat ≤ 12
  · by_cases ha : q.addr.toNat ≤ 7
    · exact ⟨_, .built (requestFrame q), fun _ hq hc => exec_build_ok hq hc hp ha⟩
    · exact ⟨_, .fault .addressOutOfRange q.addr nofun, fun _ hq hc =>
        (issue_idle _ hq).trans (buildPhase_address _ hc hp (Nat.not_le.1 ha))⟩
  · exact ⟨_, .fault .payloadTooLong q.plen nofun, fun _ hq hc =>
      (issue_idle _ hq).trans (buildPhase_payload _ hc (Nat.not_le.1 hp))⟩

/-- BUILD answers a next state from IDLE only where the machine admits the category (R110, R217). -/
theorem category_mem_of_exec_build {q : HostReq} {s t : State} (hq : s.seq = .idle)
    (h : exec (.build q) s = .next t) : q.cat ∈ s.categoryCodes := by
  by_contra hc
  cases h.symm.trans ((issue_idle _ hq).trans (buildPhase_refused _ hc))

/-- A frame that PARSE accepts or reports as bad fixes one update, which every state answers with (R113). -/
theorem parseResult_update {f : List Byte} {s t : State} (h : parseResult f s = .next t) :
    ∃ u, CodecUpdate .parse u ∧ ∀ s', parseResult f s' = .next (u s') := by
  unfold parseResult at h ⊢
  cases hc : classify f with
  | tooShort n => exact ⟨_, .error .protoFrameTooShort _ nofun, fun _ => rfl⟩
  | notTerminated => rw [hc] at h; cases h
  | unknownType ty => exact ⟨_, .error .protoUnknownReplyType _ nofun, fun _ => rfl⟩
  | ack => exact ⟨_, .parsed _ _ _ _, fun _ => rfl⟩
  | completion p => exact ⟨_, .parsed _ _ _ _, fun _ => rfl⟩
  | error c => exact ⟨_, .parsed _ _ _ _, fun _ => rfl⟩

/-- PARSE answers a next state from IDLE only for a frame that the port can hold (R121, R217). -/
theorem length_le_of_exec_parse {n : BitVec 5} {f : List Byte} {s t : State} (hq : s.seq = .idle)
    (h : exec (.parse n f) s = .next t) : n.toNat ≤ 16 := by
  by_contra hn
  cases h.symm.trans ((issue_idle _ hq).trans (if_pos (Nat.not_le.1 hn)))

end Sys2Proof.Machine
end

section
/-!
The statements about BUILD and PARSE (spec 40_codec.md, R111, R114, R119, R122).
-/
namespace Sys2Proof.Machine

/-- Settles O8: BUILD ends with `setOk` of the request frame. -/
theorem buildWritesTheRequestFrame : Obligations.BuildWritesTheRequestFrame := by
  intro q s hq hc hp ha hw
  refine ⟨setOk (requestFrame q) s, exec_build_ok hq hc hp ha, ?_, requestFrame_length hw hp, rfl, rfl, rfl⟩
  rw [setOk_resultBytes, requestFrame_eq ha]

/-- Settles O12: both results are a `setError`, of a frame too short to classify and of a reply frame of a reserved
type. -/
theorem parseErrorsWriteOnlyCodeAndDetail : Obligations.ParseErrorsWriteOnlyCodeAndDetail := by
  intro flen fdata s hq hw
  constructor
  · intro hn
    have hlen : (fdata.take flen.toNat).length = flen.toNat := by rw [List.length_take, hw]; omega
    refine ⟨_, (exec_parse_idle fdata hq (by omega)).trans (parseResult_of_length_lt s (by omega)), rfl, ?_, rfl⟩
    rw [setError_resDetail, hlen, BitVec.ofNat_toNat]
  · intro b1 h3 hn hterm hb1 h4 h5 h6
    obtain ⟨k, hk⟩ : ∃ k, flen.toNat = k + 3 := ⟨flen.toNat - 3, by omega⟩
    rw [hk] at hterm
    obtain ⟨r, hr⟩ := take_eq_replyFrame hb1 hterm
    refine ⟨setError .protoUnknownReplyType ((hi4 b1).setWidth 8) s, ?_, rfl, rfl, rfl⟩
    rw [exec_parse_idle fdata hq hn, hk, hr, parseResult_replyFrame_reserved r s h4 h5 h6]

/-- Settles O13: the answer is a `CodecUpdate` that the operands fix, the same one in every state that has the same
`CATEGORY_CODES`. -/
theorem codecOperationsTouchNoOtherUnit : Obligations.CodecOperationsTouchNoOtherUnit := by
  rintro i s t (⟨q, rfl⟩ | ⟨n, f, rfl⟩) hq h
  · obtain ⟨u, hu, hexec⟩ := exec_build_update q
    have hc := category_mem_of_exec_build hq h
    cases h.symm.trans (hexec s hq hc)
    refine ⟨hu.frame s, (hu.seq s).imp_right fun hf => ⟨⟨q, rfl⟩, hf.2⟩, fun s' hq' he => ?_⟩
    exact ⟨u s', hexec s' hq' (categoryCodes_congr he ▸ hc), fun _ => hu.resultView s' s, nofun⟩
  · have hn := length_le_of_exec_parse hq h
    rw [exec_parse_idle f hq hn] at h
    obtain ⟨u, hu, hparse⟩ := parseResult_update h
    cases h.symm.trans (hparse s)
    refine ⟨hu.frame s, (hu.seq s).imp_right nofun, fun s' hq' _ => ?_⟩
    exact ⟨u s', (exec_parse_idle f hq' hn).trans (hparse s'), nofun, fun _ => hu.resultView s' s⟩

/-- Settles O17: the accessor by the two halves of the nibble's range; PARSE by its acceptance of every reply frame of
the three types. -/
theorem addressAccessorNeverWraps : Obligations.AddressAccessorNeverWraps := by
  refine ⟨fun b0 f => ⟨addressOfNibble_of_le, addressOfNibble_of_lt⟩, ?_⟩
  intro flen b0 b1 rest pad s hq hn hw ht
  have htake : (b0 :: b1 :: rest ++ 0xFF :: pad).take flen.toNat = b0 :: b1 :: rest ++ [0xFF] := by
    rw [hn]
    exact take_length_append_term (b0 :: b1 :: rest) pad
  obtain ⟨c, p, d, hparse⟩ := parseResult_accepted b0 b1 rest s ht
  refine ⟨parsed (b0 :: b1 :: rest ++ [0xFF]) c p d s, ?_, rfl, ?_, ?_⟩
  · rw [exec_parse_idle _ hq (by omega), htake]
    exact hparse
  · rw [List.cons_append, parsed_resAddr_cons]
  · rw [parsed_resAddr, Option.map_some, addressOf]

end Sys2Proof.Machine
end

section
/-!
The steps of SR in a receive state (spec 41_stream_reassembly.md, R140 to R152): the read that a turn makes, its
failures, and what a step from RXF can come to.
-/
namespace Sys2Proof.Machine

/-! ## The read of a turn -/

/-- With no terminator held and room left, the step is the turn's read (R143). -/
theorem step_read {s : State} {h : List Byte} (hq : s.seq.receiving = true) (hp : s.powerOn = false)
    (hh : holds s h) (hn : Config.term ∉ h) (hl : h.length < Config.bufCap) : step s = chanRead s :=
  step_outcome hp hq (nextFrameTurn_read hh hn hl)

theorem chanRead_bytes {s : State} {bs : List Byte} {rest : List ChanAnswer} (hs : s.script = .bytes bs :: rest)
    (h1 : 1 ≤ bs.length) (hl : bs.length ≤ Config.bufCap - s.rxCnt) :
    chanRead s = .next (append bs (transacted (.read (Config.bufCap - s.rxCnt)) rest s)) := by
  simp only [chanRead, hs]
  exact if_pos ⟨h1, hl⟩

theorem chanRead_interrupted {s : State} {rest : List ChanAnswer} (hs : s.script = .interrupted :: rest) :
    chanRead s = .next (transacted (.read (Config.bufCap - s.rxCnt)) rest s) := by
  simp only [chanRead, hs]

/-- The error that a read's answer stands for: a zero read is the end of the stream (R146, R149). -/
inductive ReadFails : ChanAnswer → ChanErr → Prop where
  | zero : ReadFails .zero .closed
  | rerr (e : ChanErr) : ReadFails (.rerr e) e

theorem chanRead_fails {s : State} {a : ChanAnswer} {e : ChanErr} {rest : List ChanAnswer} (ha : ReadFails a e)
    (hs : s.script = a :: rest) :
    chanRead s = .next (receiveFail .transport (chanErrDetail e)
      (transacted (.read (Config.bufCap - s.rxCnt)) rest s)) := by
  cases ha <;> simp only [chanRead, hs]

/-! ## Failures of the receive step -/

/-- A code that R180 names sets `suspect`, whatever it was. -/
theorem suspectAfter_of_marksSuspect {c : ResCode} (hc : marksSuspect c = true) (old : Bool) :
    suspectAfter c old = true := by
  rw [suspectAfter, hc, Bool.or_true]

/-- A failure with a code of R180 marks the session of an exchange, and not that of NEXT_FRAME (R152, R180). -/
theorem receiveFail_of_marksSuspect {c : ResCode} (hc : marksSuspect c = true) (d : Byte) (s : State) :
    receiveFail c d s = { s with
      resCode := c, resDetail := d, seq := .idle, suspect := if s.seq = .rxf then s.suspect else true } := by
  rw [receiveFail_eq, suspectAfter_of_marksSuspect hc]
  rfl

/-! ## The steps from RXF -/

/-- The next states of a step from RXF (R140): a held frame is returned; the call fails with BufferFull or TRANSPORT; or
SR goes on collecting, with a read that is not answered, interrupted or appended. -/
inductive RxfStep (s : State) : State → Prop where
  | returned (f : List Byte) (k : Nat) : RxfStep s (endOk f (shift k s))
  | failed (c : ResCode) (d : Byte) (issued : List ChanTxn) (script : List ChanAnswer) :
      c = .resourceBufferFull ∨ c = .transport →
      RxfStep s { s with resCode := c, resDetail := d, seq := .idle, issued := issued, script := script }
  | collecting (cells : List (Option Byte)) (n : Nat) (issued : List ChanTxn) (script : List ChanAnswer) :
      RxfStep s { s with rxBuf := cells, rxCnt := n, issued := issued, script := script }

/-- A frame delivered in RXF is NEXT_FRAME's result, whatever it holds (R151). -/
theorem FrameEffect.eq_endOk {f : List Byte} {s t : State} (hq : s.seq = .rxf) (h : FrameEffect f s t) :
    t = endOk f s := by
  cases h with
  | returned => rfl
  | ack hr => cases hq.symm.trans hr
  | completion p hr => simp [hq] at hr
  | deviceError c hr => simp [hq] at hr
  | proto c d hr => simp [hq] at hr

/-- A read made in RXF goes on collecting or fails with TRANSPORT (R144 to R146, R149). -/
theorem chanRead_rxf {s t : State} (hq : s.seq = .rxf) (h : chanRead s = .next t) : RxfStep s t := by
  obtain ⟨-, rfl⟩ | ⟨rest, -, rfl⟩ | ⟨bs, rest, -, -, -, rfl⟩ | ⟨a, rest, d, -, -, rfl⟩ := chanRead_next h
  · exact .collecting ..
  · exact .collecting ..
  · rw [append_frame]
    exact .collecting ..
  · have hread : (transacted (.read (Config.bufCap - s.rxCnt)) rest s).seq = .rxf := hq
    rw [receiveFail_rxf _ _ hread]
    exact .failed _ _ _ _ (.inr rfl)

theorem step_rxf {s t : State} (hq : s.seq = .rxf) (hp : s.powerOn = false) (h : step s = .next t) : RxfStep s t := by
  cases step_effect hp h with
  | wait hr => simp [hq] at hr
  | host w rest i t hr => simp [hq] at hr
  | transmit f t hr => cases hq.symm.trans hr
  | frame bs p t _ _ _ hf =>
    have hshift : (shift (p + 1) s).seq = .rxf := hq
    obtain rfl := hf.eq_endOk hshift
    exact .returned ..
  | full bs =>
    rw [receiveFail_rxf _ _ hq]
    exact .failed _ _ _ _ (.inl rfl)
  | read bs t _ _ _ _ hr => exact chanRead_rxf hq hr

end Sys2Proof.Machine
end

section
/-!
The statements about SR's extraction, its reads and its failures (spec 41_stream_reassembly.md, R142 to R149, R152).
-/
namespace Sys2Proof.Machine

/-- Settles O25: each kind of `RxfStep` leaves the named registers alone and ends as the statement says. -/
theorem nextFrameKeepsTheFlags : Obligations.NextFrameKeepsTheFlags := by
  intro s t hq hp h
  cases step_rxf hq hp h with
  | returned f k => exact ⟨rfl, rfl, rfl, rfl, rfl, rfl, rfl, rfl, .inr (.inl ⟨rfl, rfl⟩)⟩
  | failed c d issued script hc =>
    have hcode : c.code ∈ ([0x20, 0x30] : List Byte) := by rcases hc with rfl | rfl <;> decide
    exact ⟨rfl, rfl, rfl, rfl, rfl, rfl, rfl, rfl, .inr (.inr ⟨rfl, hcode, rfl, rfl⟩)⟩
  | collecting cells n issued script =>
    exact ⟨rfl, rfl, rfl, rfl, rfl, rfl, rfl, rfl, .inl ⟨hq, rfl, rfl, rfl, rfl⟩⟩

/-- Settles O26: the turn's frame is `nextFrameTurn_frame`'s, and the count is the held length. -/
theorem extractTakesTheFirstFrame : Obligations.ExtractTakesTheFirstFrame := by
  intro s g rest hg hh
  have ⟨hcap, _, hcnt⟩ := hh
  rw [List.length_append, List.length_cons] at hcap hcnt
  refine ⟨_, nextFrameTurn_frame hh hg, ?_, holds_cellsOf (by omega), rfl⟩
  change rest.length + (g.length + 1) = s.rxCnt
  omega

/-- Settles O27: the read's bytes are appended to the held ones by `append_eq`. -/
theorem readAppendsTheBytes : Obligations.ReadAppendsTheBytes := by
  intro s h bs rest hq hp hh hn hs h1 hl
  have ⟨_, _, hcnt⟩ := hh
  have hroom : h.length + bs.length ≤ Config.bufCap := by
    change h.length + bs.length ≤ 16
    omega
  have hstep := (step_read hq hp hh hn (by omega)).trans (chanRead_bytes hs h1 hl)
  rw [append_eq bs _ h (transacted_holds _ rest hh) hroom] at hstep
  refine ⟨_, hstep, holds_cellsOf (by rwa [List.length_append]), ?_, rfl, rfl, rfl⟩
  rw [hcnt]
  exact List.length_append

/-- Settles O28, by induction on the number of interruptions: each step makes one read, and what the next one depends
on is as it was. -/
theorem interruptedReadsAreRetried : Obligations.InterruptedReadsAreRetried := by
  intro n
  induction n with
  | zero =>
    intro s h rest _ _ _ _ _ hs
    have hs : s.script = rest := hs
    simp [runSteps, ← hs]
  | succ n ih =>
    intro s h rest hq hp hh hn hl hs
    have hstep := (step_read hq hp hh hn hl).trans (chanRead_interrupted hs)
    have hrest := ih (transacted (.read (16 - s.rxCnt)) (List.replicate n .interrupted ++ rest) s) h rest hq hp
      (transacted_holds _ _ hh) hn hl rfl
    rw [List.replicate_succ, List.append_cons]
    exact (runSteps_succ n hstep).trans hrest

/-- Settles O29: each of the answers is a `ReadFails`, and its error's detail is the statement's. -/
theorem readErrorsEndWithTransport : Obligations.ReadErrorsEndWithTransport := by
  intro s h a rest d hq hp hh hn hl hs ha
  obtain ⟨e, he, rfl⟩ : ∃ e, ReadFails a e ∧ d = chanErrDetail e := by
    rcases ha with ⟨rfl, rfl⟩ | ⟨rfl, rfl⟩ | ⟨rfl, rfl⟩ | ⟨rfl, rfl⟩ | ⟨n, rfl, rfl⟩
    · exact ⟨.closed, .zero, rfl⟩
    · exact ⟨.io, .rerr _, rfl⟩
    · exact ⟨.timeout, .rerr _, rfl⟩
    · exact ⟨.closed, .rerr _, rfl⟩
    · exact ⟨.other n, .rerr _, rfl⟩
  rw [step_read hq hp hh hn hl, chanRead_fails he hs, receiveFail_of_marksSuspect rfl]
  rfl

/-- Settles O30: without a terminator the turn fails before any read; with one, the turn's frame ends the call. -/
theorem bufferFullDiscardsNothing : Obligations.BufferFullDiscardsNothing := by
  intro s h hp hh hl
  constructor
  · intro hn hq
    rw [step_outcome hp hq (nextFrameTurn_full hh hn hl), receiveFail_of_marksSuspect rfl]
  · rintro g rest rfl hg hq
    obtain ⟨t, hturn, -, hrest, hframe⟩ := extractTakesTheFirstFrame s g rest hg hh
    have htq : t.seq = .rxf := (congrArg State.seq hframe).trans hq
    exact ⟨_, step_frame_rxf hp hq hturn htq, rfl, setOk_resultBytes _ t, holds_congr hrest rfl rfl⟩

end Sys2Proof.Machine
end

section
/-!
TRANSACT's issue and its transmit phase (spec 42_handshake.md, R171, R172): the build phase it shares with BUILD, and
the one write of the latched frame.
-/
namespace Sys2Proof.Machine

/-! ## The issue (R171) -/

/-- The build phase stops in the same way for every use of the frame, or goes on with the request frame (R110). -/
theorem buildPhase_stops_or_runs (q : HostReq) (s : State) :
    (∃ o, ∀ run, buildPhase q s run = o) ∨ ∀ run, buildPhase q s run = run (requestFrame q) := by
  by_cases hc : q.cat ∈ s.categoryCodes
  · by_cases hp : q.plen.toNat ≤ 12
    · by_cases ha : q.addr.toNat ≤ 7
      · exact .inr fun run => buildPhase_ok run hc hp ha
      · exact .inl ⟨_, fun run => buildPhase_address run hc hp (Nat.not_le.1 ha)⟩
    · exact .inl ⟨_, fun run => buildPhase_payload run hc (Nat.not_le.1 hp)⟩
  · exact .inl ⟨_, fun run => buildPhase_refused run hc⟩

/-- In IDLE, BUILD answers the request frame as its result, or BUILD and TRANSACT have one outcome (R171). -/
theorem exec_build_idle_cases (q : HostReq) {s : State} (hq : s.seq = .idle) :
    exec (.build q) s = .next (setOk (requestFrame q) s) ∨ exec (.transact q) s = exec (.build q) s := by
  obtain ⟨o, hstop⟩ | hrun := buildPhase_stops_or_runs q s
  · exact .inr (((issue_idle _ hq).trans (hstop _)).trans ((issue_idle _ hq).trans (hstop _)).symm)
  · exact .inl ((issue_idle _ hq).trans (hrun _))

theorem exec_transact_ok {q : HostReq} {s : State} (hq : s.seq = .idle) (hc : q.cat ∈ s.categoryCodes)
    (hp : q.plen.toNat ≤ 12) (ha : q.addr.toNat ≤ 7) :
    exec (.transact q) s = .next { latch (requestFrame q) s with seq := .tx } :=
  (issue_idle _ hq).trans (buildPhase_ok _ hc hp ha)

/-- The transmit register reads back as the frame latched in it (R26). -/
@[simp] theorem latch_txBytes (f : List Byte) (s : State) : txBytes (latch f s) = some f :=
  readCells_overlay f s.txFrame

/-- Settles O35: TRANSACT latches the frame that BUILD writes, and where BUILD writes none the two have one outcome. -/
theorem transactLatchesTheRequest : Obligations.TransactLatchesTheRequest := by
  intro q s hq
  refine ⟨fun hc hp ha hw => ?_, fun t hb ht => ?_, fun e hb => ?_⟩
  · refine ⟨_, exec_transact_ok hq hc hp ha, rfl, ?_, congrArg some (requestFrame_length hw hp), rfl⟩
    rw [← requestFrame_eq ha]
    exact latch_txBytes (requestFrame q) s
  · obtain hok | hsame := exec_build_idle_cases q hq
    · cases hok.symm.trans hb
      cases hq.symm.trans ht
    · exact hsame.trans hb
  · obtain hok | hsame := exec_build_idle_cases q hq
    · cases hok.symm.trans hb
    · exact hsame.trans hb

/-! ## The write (R172) -/

theorem chanWrite_whole {f : List Byte} {s : State} {rest : List ChanAnswer} (hs : s.script = .wrote f.length :: rest) :
    chanWrite f s = .next { transacted (.write f) rest s with seq := .rx1 } := by
  simp only [chanWrite, hs, if_true]

theorem chanWrite_partial {f : List Byte} {s : State} {n : Nat} {rest : List ChanAnswer} (hn : n < f.length)
    (hs : s.script = .wrote n :: rest) :
    chanWrite f s = .next (endError .transport partialWriteDetail (transacted (.write f) rest s)) := by
  simp only [chanWrite, hs, hn.ne, hn, if_false, if_true]

theorem chanWrite_error {f : List Byte} {s : State} {e : ChanErr} {rest : List ChanAnswer}
    (hs : s.script = .werr e :: rest) :
    chanWrite f s = .next (endError .transport (chanErrDetail e) (transacted (.write f) rest s)) := by
  simp only [chanWrite, hs]

/-- An exchange that ends with a code of R180 sets `suspect`, whatever it was. -/
theorem endError_of_marksSuspect {c : ResCode} (hc : marksSuspect c = true) (d : Byte) (s : State) :
    endError c d s = { s with resCode := c, resDetail := d, suspect := true, seq := .idle } := by
  rw [← suspectAfter_of_marksSuspect hc s.suspect]
  rfl

theorem transmit_tx {s : State} (f : List Byte) (hq : s.seq = .tx) : transmit f s = chanWrite f s := by
  simp only [transmit, hq]

/-- Settles O38: a request row in TX is `chanWrite` of its frame, which has an equation for each answer. -/
theorem transmitWritesTheFrameOnce : Obligations.TransmitWritesTheFrameOnce := by
  intro s r rest i f hq hi
  have hwrite : exec i s = chanWrite f s := by
    obtain ⟨rfl, rfl⟩ | ⟨rfl, rfl⟩ := hi <;> exact transmit_tx _ hq
  rw [hwrite]
  refine ⟨fun hs => chanWrite_whole hs, fun n hn hs => ?_, fun e hs => ?_⟩
  · rw [chanWrite_partial hn hs, endError_of_marksSuspect rfl]
    rfl
  · rw [chanWrite_error hs, endError_of_marksSuspect rfl]
    rfl

end Sys2Proof.Machine
end

section
/-!
PS's reply dispatch (spec 42_handshake.md, R174, R176, R178): the end of an exchange by a Completion and by an Error,
which the first and the second reply share, and what of a reply it depends on.
-/
namespace Sys2Proof.Machine

/-- A code that R180 does not name leaves `suspect` as it was. -/
theorem suspectAfter_of_not_marksSuspect {c : ResCode} (hc : marksSuspect c = false) (old : Bool) :
    suspectAfter c old = old := by
  rw [suspectAfter, hc, Bool.or_false]

/-- A device error writes the result code, its detail and `seq` only (R170, R180). -/
theorem endError_deviceError (d : Byte) (s : State) :
    endError .deviceError d s = { s with resCode := .deviceError, resDetail := d, seq := .idle } := by
  rw [endError, suspectAfter_of_not_marksSuspect rfl]
  rfl

/-- The error code of a reply is the byte that follows byte 1 of its frame (R81, R118). -/
theorem replyCode_eq_headD (r : Reply) : r.code = (r.body ++ [0xFF]).headD 0 := by
  unfold Reply.code
  cases r.body <;> rfl

/-- A Completion ends an exchange in either receive state with its payload (R174, R176). -/
theorem rplCompletion_ends_exchange {s : State} (r : Reply) (hq : s.seq = .rx1 ∨ s.seq = .rx2) :
    ∃ t, exec (.rplCompletion r) s = .next t ∧ t.resultBytes = some r.body ∧ t.resLen = r.body.length ∧
      t.resCode.code = 0 ∧ t.resDetail = 0 ∧ t.seq.code = 0 ∧
      t = { s with resData := t.resData, resLen := t.resLen, resCode := t.resCode, resDetail := t.resDetail,
                   seq := t.seq } :=
  ⟨endOk r.body s, onReply_exchange _ _ hq, setOk_resultBytes r.body s, rfl, rfl, rfl, rfl, rfl⟩

/-- An Error ends an exchange in either receive state with its code, whose kind the host may read (R174, R176, R213). -/
theorem rplError_ends_exchange {s : State} (r : Reply) (hq : s.seq = .rx1 ∨ s.seq = .rx2) :
    ∃ t, exec (.rplError r) s = .next t ∧ t.resCode.code = 1 ∧ t.resDetail = (r.body ++ [0xFF]).headD 0 ∧
      t.deviceErrorKind = some (errorKindOf t.resDetail) ∧ t.seq.code = 0 ∧
      t = { s with resCode := t.resCode, resDetail := t.resDetail, seq := t.seq } := by
  have hexec : exec (.rplError r) s = .next (endError .deviceError r.code s) := by
    refine (onReply_exchange _ _ hq).trans ?_
    rw [psDeviceError, errorCodeOf_errorKindOf]
  rw [endError_deviceError] at hexec
  exact ⟨_, hexec, rfl, replyCode_eq_headD r, if_pos rfl, rfl, rfl⟩

theorem psAck_rx1 {s : State} (hq : s.seq = .rx1) : psAck s = { s with seq := .rx2 } := by
  simp only [psAck, hq]

/-- A second Ack is an unexpected reply (R176). -/
theorem psAck_rx2 {s : State} (hq : s.seq = .rx2) : psAck s = endError .protoUnexpectedReply 0x4 s := by
  simp only [psAck, hq]

/-- Settles O39: a first Ack moves to RX2; the other two classes end the exchange. -/
theorem firstReplyByClass : Obligations.FirstReplyByClass := by
  intro s r hq
  refine ⟨?_, rplCompletion_ends_exchange r (.inl hq), rplError_ends_exchange r (.inl hq)⟩
  rw [← psAck_rx1 hq]
  exact onReply_exchange _ psAck (.inl hq)

/-- Settles O40: a second Ack ends the exchange with a code of R180; the other two classes end it as before. -/
theorem secondReplyByClass : Obligations.SecondReplyByClass := by
  intro s r hq
  refine ⟨?_, rplCompletion_ends_exchange r (.inr hq), rplError_ends_exchange r (.inr hq)⟩
  rw [← endError_of_marksSuspect rfl, ← psAck_rx2 hq]
  exact onReply_exchange _ psAck (.inr hq)

/-- Settles O45: what PS does with a reply of type `t` is a function of its body, in which the error code stands. -/
theorem exchangeIgnoresAddressAndSocket : Obligations.ExchangeIgnoresAddressAndSocket := by
  intro s t r r' hq hbody
  have hcode : r.code = r'.code := congrArg (List.headD · Config.term) hbody
  rw [exec_replyRow, exec_replyRow, onReply_exchange _ _ hq, onReply_exchange _ _ hq, hbody, hcode]

end Sys2Proof.Machine
end

section
/-!
The flag `suspect` (spec 10_state.md R28, 42_handshake.md R180): how each kind of step treats it.
-/
namespace Sys2Proof.Machine

/-- TRANSACT is in progress (R25). -/
def inExchange (s : State) : Prop := s.seq = .tx ∨ s.seq = .rx1 ∨ s.seq = .rx2

theorem inExchange.ne_idle {s : State} (h : inExchange s) : s.seq ≠ .idle := by
  rcases h with h | h | h <;> rw [h] <;> exact nofun

theorem inExchange.not_atRest {s : State} (h : inExchange s) : ¬ atRest s := by
  rintro (hr | hr)
  · exact h.ne_idle hr
  · simp [inExchange, hr] at h

theorem inExchange.ne_rxf {s : State} (h : inExchange s) : s.seq ≠ .rxf := by
  rcases h with h | h | h <;> rw [h] <;> exact nofun

theorem inExchange_of_receiving {s : State} (hr : s.seq.receiving = true) (hx : s.seq ≠ .rxf) : inExchange s := by
  cases hs : s.seq <;> simp_all [inExchange, Seq.receiving]

/-- The codes with which an exchange can end: those that mark the session, OK and DEVICE_ERROR (R170, R180). -/
def endsExchange (c : ResCode) : Prop := marksSuspect c = true ∨ c = .ok ∨ c = .deviceError

/-- The codes that mark the session, by value (R180, R211). -/
theorem marksSuspect_iff (c : ResCode) :
    marksSuspect c = true ↔ c.code ∈ ([0x10, 0x11, 0x12, 0x20, 0x30] : List Byte) := by
  cases c <;> decide

/-- The ways in which a step treats `suspect`: RESET clears it, the end of an exchange writes it by R180, and every
other step keeps it. -/
inductive SuspectEffect (s t : State) : Prop where
  | kept : t.suspect = s.suspect → (inExchange s → t.seq ≠ .idle) → SuspectEffect s t
  | cleared (w : HostWord) (rest : List HostWord) :
      atRest s → s.host = w :: rest → decodeHostWord w = .ok .reset → t.suspect = false → SuspectEffect s t
  | ended : inExchange s → t.seq = .idle → endsExchange t.resCode →
      t.suspect = suspectAfter t.resCode s.suspect → SuspectEffect s t

/-- A host operation other than RESET keeps `suspect` (R28). -/
theorem HostEffect.suspect_eq {i : Instr} {s t : State} (h : HostEffect i s t) (hi : i ≠ .reset) :
    t.suspect = s.suspect := by
  cases h with
  | reset hreset => exact absurd hreset hi
  | faulted => rfl
  | enterFault => rfl
  | error => rfl
  | ok => rfl
  | parsed => rfl
  | nextFrame => rfl
  | transact => rfl

/-- RESET answers the reset of the block, at rest (R200). -/
theorem exec_reset_atRest {s : State} (h : atRest s) : exec .reset s = .next (resetBlock s) := by
  rcases h with h | h <;> simp only [exec, execReset, h]

/-- A failed receive step ends an exchange by R180, and keeps `suspect` in RXF (R152); `u` is the state after the
read, if one was made. -/
theorem receiveFail_suspectEffect {s u : State} {c : ResCode} (d : Byte) (hr : s.seq.receiving = true)
    (hc : marksSuspect c = true) (hseq : u.seq = s.seq) (hsus : u.suspect = s.suspect) :
    SuspectEffect s (receiveFail c d u) := by
  rw [receiveFail_eq, hseq, hsus]
  by_cases hx : s.seq = .rxf
  · exact .kept (if_pos hx) fun he => absurd hx he.ne_rxf
  · exact .ended (inExchange_of_receiving hr hx) rfl (.inl hc) (if_neg hx)

/-- A delivered frame ends an exchange by R180, or keeps `suspect`; `u` is the state it was taken from. -/
theorem FrameEffect.suspectEffect {f : List Byte} {s u t : State} (h : FrameEffect f u t) (hseq : u.seq = s.seq)
    (hsus : u.suspect = s.suspect) : SuspectEffect s t := by
  have hex : u.seq = .rx1 ∨ u.seq = .rx2 → inExchange s := fun hq => .inr (hseq ▸ hq)
  cases h with
  | returned hq => exact .kept hsus fun he => absurd (hseq.symm.trans hq) he.ne_rxf
  | ack hq => exact .kept hsus fun _ => nofun
  | completion p hq =>
    exact .ended (hex hq) rfl (.inr (.inl rfl)) (hsus.trans (suspectAfter_of_not_marksSuspect rfl _).symm)
  | deviceError c hq => exact .ended (hex hq) rfl (.inr (.inr rfl)) (congrArg (suspectAfter _) hsus)
  | proto c d hq hc =>
    have hmark : marksSuspect c = true := by rcases hc with rfl | rfl | rfl <;> rfl
    exact .ended (hex hq) rfl (.inl hmark) (congrArg (suspectAfter c) hsus)

/-- A read goes on collecting, or fails with TRANSPORT (R143 to R149). -/
theorem chanRead_suspectEffect {s t : State} (hr : s.seq.receiving = true) (h : chanRead s = .next t) :
    SuspectEffect s t := by
  obtain ⟨-, rfl⟩ | ⟨rest, -, rfl⟩ | ⟨bs, rest, -, -, -, rfl⟩ | ⟨a, rest, d, -, -, rfl⟩ := chanRead_next h
  · exact .kept rfl inExchange.ne_idle
  · exact .kept rfl inExchange.ne_idle
  · refine .kept (append_suspect ..) fun he => ?_
    rw [append_seq]
    exact he.ne_idle
  · exact receiveFail_suspectEffect d hr rfl rfl rfl

/-- A write goes on to RX1, or ends the exchange with TRANSPORT (R172). -/
theorem chanWrite_suspectEffect {f : List Byte} {s t : State} (hq : s.seq = .tx) (h : chanWrite f s = .next t) :
    SuspectEffect s t := by
  obtain ⟨rest, -, rfl⟩ | ⟨a, rest, d, -, -, rfl⟩ := chanWrite_next h
  · exact .kept rfl fun _ => nofun
  · exact .ended (.inl hq) rfl (.inl rfl) rfl

/-- Every step with the power-on reset input not asserted treats `suspect` in one of the three ways (R28, R180). -/
theorem step_suspectEffect {s t : State} (hp : s.powerOn = false) (h : step s = .next t) : SuspectEffect s t := by
  cases step_effect hp h with
  | wait hr => exact .kept rfl inExchange.ne_idle
  | host w rest i t hr hh hd he heff =>
    by_cases hi : i = .reset
    · subst hi
      cases he.symm.trans (exec_reset_atRest hr)
      exact .cleared w rest hr hh hd rfl
    · exact .kept (heff.suspect_eq hi) fun hx => absurd hr hx.not_atRest
  | transmit f t hq _ hw => exact chanWrite_suspectEffect hq hw
  | frame bs p t hr _ _ hf => exact hf.suspectEffect rfl rfl
  | full bs hr => exact receiveFail_suspectEffect 0 hr rfl rfl rfl
  | read bs t hr _ _ _ hread => exact chanRead_suspectEffect hr hread

/-- Settles O52: each clause holds of every `SuspectEffect`. -/
theorem suspectIsStickyAndMarksFailedExchanges : Obligations.SuspectIsStickyAndMarksFailedExchanges := by
  intro s t hp h
  cases step_suspectEffect hp h with
  | kept hsus hidle =>
    refine ⟨fun hs => .inl (hsus.trans hs), fun hs ht => ?_, fun hx ht => absurd ht (hidle hx)⟩
    cases hs.symm.trans (hsus.symm.trans ht)
  | cleared w rest hr hh hd ht =>
    refine ⟨fun _ => .inr ⟨hr, w, rest, hh, hd⟩, fun _ ht' => ?_, fun hx => absurd hr (inExchange.not_atRest hx)⟩
    cases ht.symm.trans ht'
  | ended hx hidle hends hsus =>
    obtain hmark | hcode := hends
    · have ht : t.suspect = true := hsus.trans (suspectAfter_of_marksSuspect hmark _)
      have hmem := (marksSuspect_iff _).1 hmark
      exact ⟨fun _ => .inl ht, fun _ _ => ⟨hx, hidle, hmem⟩, fun _ _ => .inl ⟨hmem, ht⟩⟩
    · have hno : marksSuspect t.resCode = false := by rcases hcode with hc | hc <;> rw [hc] <;> rfl
      have hmem : t.resCode.code ∈ ([0x00, 0x01] : List Byte) := by rcases hcode with hc | hc <;> rw [hc] <;> decide
      have ht : t.suspect = s.suspect := hsus.trans (suspectAfter_of_not_marksSuspect hno _)
      refine ⟨fun hs => .inl (ht.trans hs), fun hs ht' => ?_, fun _ _ => .inr ⟨hmem, ht⟩⟩
      cases hs.symm.trans (ht.symm.trans ht')

end Sys2Proof.Machine
end

section
/-!
Control (spec 43_control.md, R200, R203): what RESET leaves, and what every other operation answers in FAULT.
-/
namespace Sys2Proof.Machine

/-- Every operation but RESET goes through the issue check (R202, R203); a Command Layer operation does as the TRANSACT
it expands to (R91). -/
theorem exec_eq_issue {i : Instr} (s : State) (hfmt : formatOf i = .hostOp ∨ formatOf i = .pseudo) (hi : i ≠ .reset) :
    ∃ run, exec i s = issue s run := by
  cases i with
  | reset => exact absurd rfl hi
  | build | parse | nextFrame | transact | reservedOp0 | reservedOp6 | reservedOp7 => exact ⟨_, rfl⟩
  | powerGet | powerSet | zoomGet | zoomSet | panTiltGet | panTiltSetAbsolute | panTiltSetRelative
  | panTiltJogOrStop | presetsSetResetRecall => exact ⟨_, rfl⟩
  | _ => simp [formatOf] at hfmt

/-- Settles O6: an issued operation in FAULT answers `faulted`, whatever it would have run. -/
theorem faultAnswersFaultedToEveryOtherOperation : Obligations.FaultAnswersFaultedToEveryOtherOperation := by
  intro i s hfmt hi hq
  obtain ⟨run, hissue⟩ := exec_eq_issue s hfmt hi
  exact ⟨faulted s, hissue.trans (issue_fault run hq), rfl, faulted_resDetail s, rfl⟩

/-- Settles O3: at rest RESET answers `resetBlock`, whose registers are those of the reset state and whose other fields
are the old ones. -/
theorem resetOpRestoresTheResetState : Obligations.ResetOpRestoresTheResetState := by
  intro s hrest
  exact ⟨resetBlock s, exec_reset_atRest hrest,
    rfl, rfl, rfl,
    rfl, rfl, rfl, rfl,
    rfl, rfl, rfl, rfl,
    rfl, rfl, rfl,
    rfl, rfl, rfl, rfl,
    rfl⟩

end Sys2Proof.Machine
end

section
/-!
Exceptions (spec 60_exceptions.md, R216, R217): the FAULT entry of BUILD and TRANSACT, what a step from FAULT can do,
and the refusals of BUILD, TRANSACT and PARSE.
-/
namespace Sys2Proof.Machine

/-! ## The FAULT entry (R216) -/

/-- Where the build phase stops whatever use the frame has, BUILD and TRANSACT in IDLE have its outcome (R110, R171). -/
theorem exec_build_transact_of_stop {q : HostReq} {s : State} {o : Out} (hq : s.seq = .idle)
    (hstop : ∀ run, buildPhase q s run = o) : exec (.build q) s = o ∧ exec (.transact q) s = o :=
  ⟨(issue_idle _ hq).trans (hstop _), (issue_idle _ hq).trans (hstop _)⟩

/-- A step from FAULT waits, answers FAULTED to the host's next operation, or is the RESET that the host issued
(R200, R203). -/
theorem step_fault_cases {s t : State} (hq : s.seq = .fault) (hp : s.powerOn = false) (h : step s = .next t) :
    t = s ∨ (∃ rest, t = faulted { s with host := rest }) ∨
      ∃ w rest, s.host = w :: rest ∧ decodeHostWord w = .ok .reset ∧ t = resetBlock { s with host := rest } := by
  have hno : s.seq.receiving = false := by rw [hq]; rfl
  cases step_effect hp h with
  | wait => exact .inl rfl
  | host w rest i _ _ hw hd hexec =>
    by_cases hi : i = .reset
    · subst hi
      cases hexec.symm.trans (exec_reset_atRest (.inr hq))
      exact .inr (.inr ⟨w, rest, hw, hd, rfl⟩)
    · obtain ⟨run, hissue⟩ := exec_eq_issue { s with host := rest } (decodeHostWord_format hd) hi
      cases hexec.symm.trans (hissue.trans (issue_fault run hq))
      exact .inr (.inl ⟨rest, rfl⟩)
  | transmit _ _ htx => cases hq.symm.trans htx
  | frame _ _ _ hr => cases hno.symm.trans hr
  | full _ hr => cases hno.symm.trans hr
  | read _ _ hr => cases hno.symm.trans hr

/-- Settles O9: the build phase stops with `enterFault` of each cause in turn, and a step from FAULT is one of
`step_fault_cases`. -/
theorem faultEntryHoldsUntilReset : Obligations.FaultEntryHoldsUntilReset := by
  refine ⟨fun q s hq hc => ⟨fun hp => ?_, fun hp ha => ?_⟩, fun s t hq hpow h => ?_⟩
  · obtain ⟨hb, ht⟩ := exec_build_transact_of_stop hq fun run => buildPhase_payload run hc hp
    exact ⟨enterFault .payloadTooLong q.plen s, hb, ht, rfl, rfl, rfl, rfl, rfl⟩
  · obtain ⟨hb, ht⟩ := exec_build_transact_of_stop hq fun run => buildPhase_address run hc hp ha
    exact ⟨enterFault .addressOutOfRange q.addr s, hb, ht, rfl, rfl, rfl, rfl, rfl⟩
  · obtain rfl | ⟨rest, rfl⟩ | hreset := step_fault_cases hq hpow h
    · exact .inl ⟨hq, rfl, rfl, rfl, rfl, rfl, rfl, rfl, rfl⟩
    · exact .inl ⟨hq, rfl, rfl, rfl, rfl, rfl, rfl, rfl, rfl⟩
    · exact .inr hreset

/-! ## The refusals (R217) -/

/-- A frame of 3 bytes or more that does not end in the terminator is not terminated, whatever its type (R121). -/
theorem classify_of_getLast?_ne_term {f : List Byte} (hl : 3 ≤ f.length) (ht : f.getLast? ≠ some Config.term) :
    classify f = .notTerminated := by
  match f with
  | [] | [_] | [_, _] => simp at hl
  | _ :: _ :: b2 :: rest =>
    rw [List.getLast?_cons_cons, List.getLast?_cons_cons] at ht
    exact if_pos ht

/-- The last of the first `n` bytes is byte `n - 1`. -/
theorem getLast?_take_of_le {f : List Byte} {n : Nat} (h0 : 0 < n) (hn : n ≤ f.length) :
    (f.take n).getLast? = f[n - 1]? := by
  rw [List.getLast?_eq_getElem?, List.length_take_of_le hn, List.getElem?_take_of_lt (by omega)]

/-- Settles O10: the build phase refuses the category, and PARSE the length before it classifies, then the missing
terminator. -/
theorem theThreeRefusals : Obligations.TheThreeRefusals := by
  intro s hq
  refine ⟨fun q hc => exec_build_transact_of_stop hq fun run => buildPhase_refused run hc,
    fun n f hn => (issue_idle _ hq).trans (if_pos hn), fun n f h3 hn hw hlast => ?_⟩
  have hclass : classify (f.take n.toNat) = .notTerminated := by
    apply classify_of_getLast?_ne_term
    · rw [List.length_take_of_le (by omega)]
      exact h3
    · rwa [getLast?_take_of_le (by omega) (by omega)]
  rw [exec_parse_idle f hq hn, parseResult, hclass]

end Sys2Proof.Machine
end

section
/-!
The encodings (spec 30_encoding.md): each format's decoder reads back what the encoder writes, and accepts nothing else.
-/
namespace Sys2Proof.Machine

/-! ## Host-port operations (R86, R87) -/

theorem decodeHostReq_encode (mk : HostReq → Instr) {q : HostReq} (hw : q.wf = true) :
    decodeHostReq mk ([q.addr, q.kind.select, q.cat, q.plen] ++ q.pdata) = .ok (mk q) := by
  obtain ⟨addr, kind, cat, plen, pdata⟩ := q
  have hlen : pdata.length = Config.maxPayload := beq_iff_eq.1 hw
  have htake : pdata.take Config.maxPayload = pdata := List.take_of_length_le hlen.le
  cases kind <;> simp [decodeHostReq, Kind.select, hlen, htake]

theorem decodeParse_encode (flen : BitVec 5) {fdata : List Byte} (hlen : fdata.length = Config.maxFrame) :
    decodeParse (flen.setWidth 8 :: fdata) = .ok (.parse flen fdata) := by
  have htake : fdata.take Config.maxFrame = fdata := List.take_of_length_le hlen.le
  have hflen : (flen.setWidth 8).toNat = flen.toNat := by simp; omega
  have hback : (flen.setWidth 8).setWidth 5 = flen := by apply BitVec.eq_of_toNat_eq; simp
  have hfits : ¬ 32 ≤ flen.toNat := by omega
  simp only [decodeParse, hlen, htake, hflen, hback, hfits, lt_irrefl, if_false]

/-! ## Request frames and Command Layer operations (R71, R91 to R100) -/

theorem decodePseudo_inquiry (a : BitVec 3) (cat b : Byte) :
    decodePseudo (enc a .inquiry cat [b]) = pseudoInquiry a cat b := by
  rw [decodePseudo, splitRequest_enc _ _ _ _ (by simp)]

theorem decodePseudo_command (a : BitVec 3) (cat : Byte) {p : List Byte} (hp : p.length ≤ 12) :
    decodePseudo (enc a .command cat p) = pseudoCommand a cat p := by
  rw [decodePseudo, splitRequest_enc _ _ _ _ hp]

theorem pseudoCommand_zoomSet (a : BitVec 3) (v : BitVec 16) :
    pseudoCommand a 0x04 (0x47 :: nib v) = .ok (.zoomSet a v) :=
  (if_pos ⟨rfl, rfl, allNibbles_nib v⟩).trans (by rw [unNib_nib])

/-- The payload of a pan and a tilt is nibble-encoded in both halves (R97, R98). -/
theorem allNibbles_nib_append (v w : BitVec 16) : allNibbles (nib v ++ nib w) = true := by
  rw [allNibbles_append, allNibbles_nib, allNibbles_nib]
  rfl

theorem pseudoCommand_panTiltSetAbsolute (a : BitVec 3) (pan tilt : BitVec 16) :
    pseudoCommand a 0x06 ([0x02, 0x01, 0x00] ++ nib pan ++ nib tilt) = .ok (.panTiltSetAbsolute a pan tilt) :=
  ((if_pos ⟨rfl, rfl, rfl, allNibbles_nib_append pan tilt⟩).trans (if_pos rfl)).trans (by rw [unNib_nib, unNib_nib])

theorem pseudoCommand_panTiltSetRelative (a : BitVec 3) (pan tilt : BitVec 16) :
    pseudoCommand a 0x06 ([0x03, 0x01, 0x00] ++ nib pan ++ nib tilt) = .ok (.panTiltSetRelative a pan tilt) :=
  (((if_pos ⟨rfl, rfl, rfl, allNibbles_nib_append pan tilt⟩).trans (if_neg (by decide))).trans (if_pos rfl)).trans
    (by rw [unNib_nib, unNib_nib])

/-- Bytes of a jog are never read as a zoom position, since the categories differ (R95, R99). -/
theorem pseudoCommand_panTiltJogOrStop (a : BitVec 3) (d0 d1 d2 d3 d4 : Byte) :
    pseudoCommand a 0x06 [d0, d1, d2, d3, d4] = .ok (.panTiltJogOrStop a d0 d1 d2 d3 d4) := by
  have hcat : (0x06 : Byte) ≠ 0x04 := by decide
  simp only [pseudoCommand, hcat, false_and, if_false, if_true]

theorem pseudoCommand_presets (a : BitVec 3) (o : Byte) {slot : Byte} (hs : slot ≤ 0x0F) :
    pseudoCommand a 0x04 [0x3F, o, slot &&& 0x0F] = .ok (.presetsSetResetRecall a o slot) := by
  rw [slot_mask hs]
  exact if_pos ⟨rfl, rfl, hs⟩

/-! ## Error codes (R81, R82) -/

theorem otherCodeWf_iff (c : Byte) : otherCodeWf c = true ↔ c ∉ namedErrorCodes := by
  simp [otherCodeWf, namedErrorCodes]

theorem decodeErrorCode_of_not_named {c : Byte} (hc : c ∉ namedErrorCodes) :
    decodeErrorCode [c] = .ok (.errOther c) := by
  simp only [mem_namedErrorCodes, not_or] at hc
  simp only [decodeErrorCode, hc, if_false]

/-! ## Every format -/

/-- Settles O20, by the rows of the table: each format's decoder reads back what the encoder wrote. -/
theorem decodeOfEncode : Obligations.DecodeOfEncode := by
  intro i hw
  cases i with
  | build q => exact decodeHostReq_encode .build hw
  | transact q => exact decodeHostReq_encode .transact hw
  | parse flen fdata => exact decodeParse_encode flen (beq_iff_eq.1 hw)
  | nextFrame | reset | reservedOp0 | reservedOp6 | reservedOp7 => rfl
  | reqCommand r | reqInquiry r =>
    simp only [decode, formatOf, encode, decodeRequest, splitRequest_enc _ _ _ _ (of_decide_eq_true hw)]
  | rplAck r | rplCompletion r | rplError r | rplReservedType0 r | rplReservedType1 r | rplReservedType2 r
  | rplReservedType3 r | rplReservedType7 r | rplReservedType8 r | rplReservedType9 r | rplReservedTypeA r
  | rplReservedTypeB r | rplReservedTypeC r | rplReservedTypeD r | rplReservedTypeE r | rplReservedTypeF r =>
    have hrow := decodeReply_replyFrame hw
    exact hrow
  | errMsgLength | errSyntax | errFullBuffer | errCanceled | errNoSocket | errNotExecutable => rfl
  | errOther c => exact decodeErrorCode_of_not_named ((otherCodeWf_iff c).1 hw)
  | catCamera1 | catPanTilter => rfl
  | powerGet a | zoomGet a | panTiltGet a => exact decodePseudo_inquiry a _ _
  | powerSet a v => exact decodePseudo_command a _ (by simp)
  | zoomSet a v => exact (decodePseudo_command a _ (by simp)).trans (pseudoCommand_zoomSet a v)
  | panTiltSetAbsolute a pan tilt =>
    exact (decodePseudo_command a _ (by simp)).trans (pseudoCommand_panTiltSetAbsolute a pan tilt)
  | panTiltSetRelative a pan tilt =>
    exact (decodePseudo_command a _ (by simp)).trans (pseudoCommand_panTiltSetRelative a pan tilt)
  | panTiltJogOrStop a d0 d1 d2 d3 d4 =>
    exact (decodePseudo_command a _ (by simp)).trans (pseudoCommand_panTiltJogOrStop a d0 d1 d2 d3 d4)
  | presetsSetResetRecall a o slot =>
    exact (decodePseudo_command a _ (by simp)).trans (pseudoCommand_presets a o (of_decide_eq_true hw))

/-- A reply row is of the reply format, and its encoding is the frame of its type (R76, R79). -/
theorem replyRow_encoding (t : Nibble) (r : Reply) :
    (replyRow t r).wf = r.wf t ∧ formatOf (replyRow t r) = .reply ∧ encode (replyRow t r) = replyFrame t r := by
  obtain ⟨n, rfl⟩ : ∃ n : Fin 16, t = BitVec.ofFin n := ⟨t.toFin, rfl⟩
  fin_cases n <;> exact ⟨rfl, rfl, rfl⟩

theorem decodeRequest_ok {f : List Byte} {i : Instr} (h : decodeRequest f = .ok i) :
    i.wf = true ∧ formatOf i = .request ∧ f = encode i := by
  unfold decodeRequest at h
  split at h
  next r hsplit =>
    cases h
    obtain ⟨hlen, rfl⟩ := splitRequest_ok hsplit
    exact ⟨decide_eq_true hlen, rfl, rfl⟩
  next r hsplit =>
    cases h
    obtain ⟨hlen, rfl⟩ := splitRequest_ok hsplit
    exact ⟨decide_eq_true hlen, rfl, rfl⟩
  · cases h

theorem decodeErrorCode_ok {bs : List Byte} {i : Instr} (h : decodeErrorCode bs = .ok i) :
    i.wf = true ∧ formatOf i = .errorCode ∧ bs = encode i := by
  match bs with
  | [] => cases h
  | _ :: _ :: _ => cases h
  | [c] =>
    by_cases hc : c ∈ namedErrorCodes
    · rcases mem_namedErrorCodes.1 hc with rfl | rfl | rfl | rfl | rfl | rfl <;> cases h <;> exact ⟨rfl, rfl, rfl⟩
    · cases (decodeErrorCode_of_not_named hc).symm.trans h
      exact ⟨(otherCodeWf_iff c).2 hc, rfl, rfl⟩

theorem decodeCategory_ok {bs : List Byte} {i : Instr} (h : decodeCategory bs = .ok i) :
    i.wf = true ∧ formatOf i = .category ∧ bs = encode i := by
  match bs with
  | [] => cases h
  | _ :: _ :: _ => cases h
  | [c] =>
    by_cases h4 : c = 0x04
    · subst h4
      cases h
      exact ⟨rfl, rfl, rfl⟩
    · by_cases h6 : c = 0x06
      · subst h6
        cases h
        exact ⟨rfl, rfl, rfl⟩
      · simp only [decodeCategory, h4, h6, if_false] at h
        cases h

/-- Settles O21: what each format's decoder accepts is an encoding; only the host port's leaves bytes unread. -/
theorem decodeAcceptsOnlyEncodings : Obligations.DecodeAcceptsOnlyEncodings := by
  intro fmt bs i h
  have whole : i.wf = true ∧ formatOf i = fmt ∧ bs = encode i →
      i.wf = true ∧ formatOf i = fmt ∧ ∃ more, bs = encode i ++ more ∧ (fmt ≠ .hostOp → more = []) :=
    fun ⟨hw, hf, hbs⟩ => ⟨hw, hf, [], by rw [List.append_nil, hbs], fun _ => rfl⟩
  cases fmt with
  | hostOp =>
    obtain ⟨hw, hf, more, hbs⟩ := decodeHostOp_ok h
    exact ⟨hw, hf, more, hbs, fun hne => absurd rfl hne⟩
  | request => exact whole (decodeRequest_ok h)
  | reply =>
    obtain ⟨t, r, rfl, rfl, hwf⟩ := decodeReply_ok h
    obtain ⟨hw, hf, he⟩ := replyRow_encoding t r
    exact whole ⟨hw.trans hwf, hf, he.symm⟩
  | errorCode => exact whole (decodeErrorCode_ok h)
  | category => exact whole (decodeCategory_ok h)
  | pseudo => exact whole (decodePseudo_ok h)

/-- Settles O22: each word is evaluated by its format's decoder. -/
theorem specWordsDecode : Obligations.SpecWordsDecode :=
  ⟨rfl, rfl, rfl, by decide, by decide, by decide, by decide, rfl, rfl, by decide⟩

end Sys2Proof.Machine
end

section
/-!
FC on frames (spec 40_codec.md sections 2 and 3, 30_encoding.md R101): what PARSE reports of a reply frame, and the round
trips of replies, requests and nibbles.
-/
namespace Sys2Proof.Machine

/-! ## PARSE of a reply frame (R113, R116 to R118) -/

/-- PARSE in IDLE reads the presented bytes up to the terminator as a reply frame. -/
theorem exec_parse_replyFrame {flen : BitVec 5} {b0 b1 : Byte} {rest pad : List Byte} {s : State} (hq : s.seq = .idle)
    (hn : flen.toNat = rest.length + 3) (hw : rest.length + 3 + pad.length = 16) :
    exec (.parse flen (b0 :: b1 :: rest ++ Config.term :: pad)) s =
      parseResult (replyFrame (hi4 b1) ⟨hi4 b0, lo4 b0, lo4 b1, rest⟩) s := by
  rw [exec_parse_idle _ hq (by omega), hn, ← bytes_eq_replyFrame]
  exact congrArg (parseResult · s) (take_length_append_term (b0 :: b1 :: rest) pad)

theorem parseResult_ack (r : Reply) (s : State) :
    parseResult (replyFrame 4 r) s = .next (parsed (replyFrame 4 r) .ack none 0 s) := by
  rw [parseResult, classify_replyFrame, if_pos rfl]

theorem parseResult_completion (r : Reply) (s : State) :
    parseResult (replyFrame 5 r) s = .next (parsed (replyFrame 5 r) .completion (some r.body) 0 s) := by
  rw [parseResult, classify_replyFrame, if_neg (by decide), if_pos rfl]

theorem parseResult_error (r : Reply) (s : State) :
    parseResult (replyFrame 6 r) s = .next (parsed (replyFrame 6 r) .error none r.code s) := by
  rw [parseResult, classify_replyFrame, if_neg (by decide), if_neg (by decide), if_pos rfl]

@[simp] theorem socketOf_replyFrame (t : Nibble) (r : Reply) : socketOf (replyFrame t r) = r.socket :=
  lo4_joinNibbles t r.socket

theorem parsed_replyFrame_resAddr (t : Nibble) (r : Reply) (c : ResClass) (p : Option (List Byte)) (d : Byte)
    (s : State) : (parsed (replyFrame t r) c p d s).resAddr = some r.addrNibble :=
  congrArg some (hi4_joinNibbles r.addrNibble r.lowNibble)

theorem parsed_replyFrame_resSocket (t : Nibble) (r : Reply) (c : ResClass) (p : Option (List Byte)) (d : Byte)
    (s : State) : (parsed (replyFrame t r) c p d s).resSocket = some r.socket :=
  congrArg some (socketOf_replyFrame t r)

/-- Settles O11: the presented bytes are a reply frame, whose class fixes what `parsed` writes. -/
theorem parseReportsTheReply : Obligations.ParseReportsTheReply := by
  intro flen b0 b1 rest pad s hq hn hw
  have hexec := exec_parse_replyFrame (b0 := b0) (b1 := b1) hq hn hw
  refine ⟨fun h => ?_, fun h => ?_, fun h => ?_⟩ <;> rw [h] at hexec
  · exact ⟨_, hexec.trans (parseResult_ack _ s), rfl, rfl, parsed_replyFrame_resAddr .., parsed_replyFrame_resSocket ..,
      rfl, rfl, rfl⟩
  · exact ⟨_, hexec.trans (parseResult_completion _ s), rfl, parsed_resultBytes .., rfl, parsed_replyFrame_resAddr ..,
      parsed_replyFrame_resSocket .., rfl, rfl, rfl⟩
  · exact ⟨_, hexec.trans (parseResult_error _ s), rfl, rfl, parsed_replyFrame_resAddr ..,
      parsed_replyFrame_resSocket .., rfl, replyCode_eq_headD _, rfl⟩

/-! ## Round trips (R123 to R125) -/

/-- The address nibble of a reply is the address and 8 (R77, R119). -/
theorem addressOfNibble_eight_add (a : BitVec 3) : addressOfNibble (8 + a.setWidth 4) = .address a := by
  revert a
  decide

theorem addressOf_replyFrame (t : Nibble) (r : Reply) : addressOf (replyFrame t r) = addressOfNibble r.addrNibble :=
  congrArg addressOfNibble (hi4_joinNibbles r.addrNibble r.lowNibble)

/-- Settles O14: each frame is `replyFrame` of its type, which `classify_replyFrame` reads. -/
theorem replyRoundTrip : Obligations.ReplyRoundTrip := by
  intro a s x p c _ _ _
  have hread : ∀ t b, addressOf (replyFrame t ⟨8 + a.setWidth 4, x, s, b⟩) = .address a ∧
      socketOf (replyFrame t ⟨8 + a.setWidth 4, x, s, b⟩) = s := fun t b =>
    ⟨(addressOf_replyFrame ..).trans (addressOfNibble_eight_add a), socketOf_replyFrame ..⟩
  refine ⟨?_, ?_, ?_⟩ <;> rintro f rfl
  · exact ⟨(classify_replyFrame 5 ⟨_, _, _, p⟩).trans ((if_neg (by decide)).trans (if_pos rfl)), hread 5 p⟩
  · exact ⟨(classify_replyFrame 4 ⟨_, _, _, p⟩).trans (if_pos rfl), hread 4 p⟩
  · exact ⟨(classify_replyFrame 6 ⟨_, _, _, [c]⟩).trans
      ((if_neg (by decide)).trans ((if_neg (by decide)).trans (if_pos rfl))), hread 6 [c]⟩

/-- Byte 0 of a request gives back its address (R72). -/
theorem header_and_mask (a : BitVec 3) : (0x80 ||| a.setWidth 8 : Byte) &&& 0x07 = a.setWidth 8 := by
  revert a
  decide

theorem kindCode_injective {k k' : Kind} (h : k.code = k'.code) : k = k' := by
  revert h
  cases k <;> cases k' <;> decide

/-- `Enc` is injective: each field stands at its own place of the frame (R124). -/
theorem enc_injective {a a' : BitVec 3} {k k' : Kind} {c c' : Byte} {p p' : List Byte}
    (h : enc a k c p = enc a' k' c' p') : a = a' ∧ k = k' ∧ c = c' ∧ p = p' := by
  simp only [enc, List.cons_append, List.nil_append, List.cons.injEq] at h
  obtain ⟨ha, hk, hc, hp⟩ := h
  refine ⟨?_, kindCode_injective hk, hc, List.append_cancel_right hp⟩
  rw [← (requestHeader a).1, ha, (requestHeader a').1]

/-- Settles O15: the fields are read off `enc`'s layout, and `enc_injective`. -/
theorem requestRoundTrip : Obligations.RequestRoundTrip := by
  refine ⟨fun a k c p _ _ => ?_, fun a k c p a' k' c' p' => enc_injective⟩
  have hcommand : k = .command ↔ k.code = 0x01 := by cases k <;> decide
  have hinquiry : k = .inquiry ↔ k.code = 0x09 := by cases k <;> decide
  exact ⟨_, _, rfl, rfl, header_and_mask a, hcommand, hinquiry, rfl, List.dropLast_concat, List.getLast?_concat,
    enc_length a k c p⟩

/-- A request is laid out as a reply of type 0 from address nibble 8 (R71, R76, R125). -/
theorem enc_eq_replyFrame (a : BitVec 3) (k : Kind) (c : Byte) (p : List Byte) :
    enc a k c p = replyFrame 0 ⟨8, a.setWidth 4, lo4 k.code, c :: p⟩ := by
  have h0 : (0x80 ||| a.setWidth 8 : Byte) = joinNibbles 8 (a.setWidth 4) := by
    revert a
    decide
  have h1 : k.code = joinNibbles 0 (lo4 k.code) := by cases k <;> decide
  rw [enc, replyFrame, ← h0, ← h1]
  rfl

/-- Settles O16: a reply of type 0 has an unknown type, and nibble 8 is address 0. -/
theorem requestsAreNoReplies : Obligations.RequestsAreNoReplies := by
  intro a k c p
  rw [enc_eq_replyFrame, classify_replyFrame, addressOf_replyFrame]
  exact ⟨rfl, rfl⟩

/-! ## Nibbles (R101) -/

theorem joinNibbles_zero_toNat (l : Nibble) : (joinNibbles 0 l).toNat = l.toNat := by
  revert l
  decide

/-- Settles O19: `nib`'s bytes are the nibbles' values, and `unNib_nib`, `unNib_toNat`. -/
theorem nibbleRoundTrip : Obligations.NibbleRoundTrip := by
  refine ⟨fun v => ⟨_, _, _, _, rfl, ?_, ?_, ?_, ?_, unNib_nib v⟩, unNib_toNat⟩ <;>
    simp only [joinNibbles_zero_toNat, BitVec.extractLsb'_toNat, Nat.shiftRight_eq_div_pow] <;>
    omega

end Sys2Proof.Machine
end

section
/-!
The Command Layer (spec 30_encoding.md R91 to R102): each operation latches its own frame, and the consumer's checks.
-/
namespace Sys2Proof.Machine

/-- The operands of an expanded operation send its frame (R91). -/
theorem requestFrame_hostReqOf (k : Kind) {r : Request} (hp : r.payload.length ≤ 12) :
    requestFrame (hostReqOf k r) = enc r.addr k r.cat r.payload := by
  have haddr : (r.addr.setWidth 8).setWidth 3 = r.addr := by apply BitVec.eq_of_toNat_eq; simp
  have hplen : (BitVec.ofNat 8 r.payload.length).toNat = r.payload.length := by simp; omega
  simp only [requestFrame, payloadRead, hostReqOf, haddr, hplen, List.take_left']

/-- An operation of the Command Layer latches its frame and enters TX (R91, R171). -/
theorem expand_latches {k : Kind} {a : BitVec 3} {cat : Byte} {p : List Byte} {s : State} (hq : s.seq = .idle)
    (hc : cat = 0x04 ∨ cat = 0x06) (hp : p.length ≤ 12) :
    ∃ t, expand k ⟨a, cat, p⟩ s = .next t ∧ t.seq = .tx ∧ txBytes t = some (enc a k cat p) ∧
      t = { s with seq := t.seq, txFrame := t.txFrame, txLen := t.txLen } := by
  have hplen : (hostReqOf k ⟨a, cat, p⟩).plen.toNat ≤ 12 := by simp [hostReqOf]; omega
  have haddr : (hostReqOf k ⟨a, cat, p⟩).addr.toNat ≤ 7 := by simp [hostReqOf]; omega
  refine ⟨_, exec_transact_ok hq (mem_categoryCodes s hc) hplen haddr, rfl, ?_, rfl⟩
  rw [← requestFrame_hostReqOf k (r := ⟨a, cat, p⟩) hp]
  exact latch_txBytes _ s

/-- Settles O36: each row is an `expand`, and its frame is `enc` of what it expands to. -/
theorem commandLayerOperationsExpandToTransact : Obligations.CommandLayerOperationsExpandToTransact := by
  intro s a v pan tilt x d0 d1 d2 d3 d4 slot hq i f hmem
  simp only [List.mem_cons, List.not_mem_nil, or_false, Prod.mk.injEq] at hmem
  rcases hmem with ⟨rfl, rfl⟩ | ⟨rfl, rfl⟩ | ⟨rfl, rfl⟩ | ⟨rfl, rfl⟩ | ⟨rfl, rfl⟩ | ⟨rfl, rfl⟩ | ⟨rfl, rfl⟩ |
    ⟨rfl, rfl⟩ | ⟨rfl, rfl⟩
  · exact expand_latches hq (.inl rfl) (by simp)
  · exact expand_latches hq (.inl rfl) (by simp)
  · exact expand_latches hq (.inl rfl) (by simp)
  · exact expand_latches hq (.inl rfl) (by simp)
  · exact expand_latches hq (.inr rfl) (by simp)
  · exact expand_latches hq (.inr rfl) (by simp)
  · exact expand_latches hq (.inr rfl) (by simp)
  · exact expand_latches hq (.inr rfl) (by simp)
  · exact expand_latches hq (.inl rfl) (by simp)

/-! ## The consumer's checks (R92 to R102) -/

theorem checkPower_violation_iff (p : List Byte) : checkPower p = .protocolViolation ↔ p.length ≠ 1 := by
  match p with
  | [] => exact ⟨fun _ => nofun, fun _ => rfl⟩
  | [b] =>
    refine ⟨fun h => ?_, fun h => absurd rfl h⟩
    rw [checkPower] at h
    split_ifs at h
  | _ :: _ :: _ => exact ⟨fun _ => by simp, fun _ => rfl⟩

theorem checkZoom_violation_iff (p : List Byte) : checkZoom p = .protocolViolation ↔ p.length ≠ 4 := by
  unfold checkZoom
  split
  · simp
  next h =>
    refine iff_of_true rfl fun hl => ?_
    obtain ⟨b0, b1, b2, b3, rfl⟩ := List.length_eq_four.1 hl
    exact h b0 b1 b2 b3 rfl

theorem checkPanTilt_violation_iff (p : List Byte) : checkPanTilt p = .protocolViolation ↔ p.length ≠ 8 := by
  unfold checkPanTilt
  split
  · simp
  next h =>
    refine iff_of_true rfl fun hl => ?_
    match p, hl with
    | [p0, p1, p2, p3, t0, t1, t2, t3], _ => exact h p0 p1 p2 p3 t0 t1 t2 t3 rfl

theorem checkEmpty_violation_iff (p : List Byte) : checkEmpty p = .protocolViolation ↔ p ≠ [] := by
  cases p with
  | nil => exact ⟨nofun, fun h => absurd rfl h⟩
  | cons b p => exact ⟨fun _ => nofun, fun _ => rfl⟩

/-- Settles O37: the decodes by `unNib_nib`, the violations by the length that each check matches. -/
theorem consumerChecksDecodeThePayload : Obligations.ConsumerChecksDecodeThePayload := by
  refine ⟨fun _ => rfl, fun v => ?_, fun pan tilt => ?_, checkPower_violation_iff, checkZoom_violation_iff,
    checkPanTilt_violation_iff, checkEmpty_violation_iff⟩
  · exact congrArg Checked.value (unNib_nib v)
  · exact congrArg Checked.value (congrArg₂ (fun p t => (p.toInt, t.toInt)) (unNib_nib pan) (unNib_nib tilt))

end Sys2Proof.Machine
end

section
/-!
Rows of the table in the sequencer states (spec 42_handshake.md R173 to R177, 30_encoding.md R74, R81): reserved and
short replies, error codes and categories, and the rows where no rule handles them.
-/
namespace Sys2Proof.Machine

/-! ## Replies in an exchange (R173 to R176) -/

/-- What PS does with a reply of type `t` in an exchange (R173 to R176). -/
def psReply (t : Nibble) (r : Reply) : State → State :=
  if t = 0x4 then psAck
  else if t = 0x5 then endOk r.body
  else if t = 0x6 then endError .deviceError r.code
  else endError .protoUnknownReplyType (t.setWidth 8)

theorem exec_replyRow_exchange (t : Nibble) (r : Reply) {s : State} (hq : s.seq = .rx1 ∨ s.seq = .rx2) :
    exec (replyRow t r) s = .next (psReply t r s) :=
  (exec_replyRow t r s).trans (onReply_exchange _ _ hq)

theorem exchange_of_receiving {s : State} (hq : s.seq.receiving = true) (hx : s.seq ≠ .rxf) :
    s.seq = .rx1 ∨ s.seq = .rx2 := by
  cases hs : s.seq <;> simp_all [Seq.receiving]

/-! ## Reserved reply types and short replies (R115, R173, R175, R177) -/

theorem unknownReply_ends_exchange {t : Nibble} {n : Byte} (r : Reply) {s : State} (hq : s.seq = .rx1 ∨ s.seq = .rx2)
    (hn : n = t.setWidth 8) :
    ∃ u, unknownReply t r s = .next u ∧ u.resCode.code = 0x11 ∧ u.resDetail = n ∧ u.suspect = true ∧ u.seq = .idle ∧
      u = { s with resCode := u.resCode, resDetail := u.resDetail, suspect := u.suspect, seq := u.seq } :=
  ⟨_, onReply_exchange _ _ hq, rfl, hn.symm, suspectAfter_of_marksSuspect rfl _, rfl, rfl⟩

/-- Settles O41: each of the thirteen rows is `unknownReply` of its nibble. -/
theorem reservedReplyTypesEndTheExchange : Obligations.ReservedReplyTypesEndTheExchange := by
  intro s r hq i n hmem
  simp only [List.mem_cons, List.not_mem_nil, or_false, Prod.mk.injEq] at hmem
  rcases hmem with ⟨rfl, rfl⟩ | ⟨rfl, rfl⟩ | ⟨rfl, rfl⟩ | ⟨rfl, rfl⟩ | ⟨rfl, rfl⟩ | ⟨rfl, rfl⟩ | ⟨rfl, rfl⟩ |
    ⟨rfl, rfl⟩ | ⟨rfl, rfl⟩ | ⟨rfl, rfl⟩ | ⟨rfl, rfl⟩ | ⟨rfl, rfl⟩ | ⟨rfl, rfl⟩ <;>
  exact unknownReply_ends_exchange r hq rfl

/-- The held bytes begin with a whole frame, which a turn takes out of the buffer (R142). -/
theorem nextFrameTurn_isFrame {s : State} {f rest : List Byte} (hf : isFrame f) (hh : holds s (f ++ rest)) :
    nextFrameTurn s = .frame f { s with rxBuf := cellsOf rest, rxCnt := rest.length } ∧
      holds { s with rxBuf := cellsOf rest, rxCnt := rest.length } rest := by
  obtain ⟨g, rfl, hg, hsplit⟩ := isFrame_split hf rest
  have hcap := hh.1
  rw [List.length_append] at hcap
  rw [hsplit] at hh
  exact ⟨nextFrameTurn_frame hh hg, holds_cellsOf (by omega)⟩

theorem isFrame.length_le {f : List Byte} (hf : isFrame f) : f.length ≤ 16 := hf.1

/-- Settles O42: the turn delivers the frame, and its length ends the exchange. -/
theorem shortRepliesEndTheExchange : Obligations.ShortRepliesEndTheExchange := by
  intro s f rest hq hp hf hl hh
  obtain ⟨hturn, hrest⟩ := nextFrameTurn_isFrame hf hh
  refine ⟨_, step_frame_short hp hq hturn rfl hl, rfl, ?_, suspectAfter_of_marksSuspect rfl _, rfl,
    holds_congr hrest rfl rfl, rfl⟩
  rw [endError_resDetail, BitVec.toNat_ofNat]
  omega

/-- Settles O24: NEXT_FRAME only moves the sequencer, and a held frame ends it with `endOk`. -/
theorem nextFrameReturnsAHeldFrame : Obligations.NextFrameReturnsAHeldFrame := by
  refine ⟨fun s hq => issue_idle _ hq, fun s f rest hq hp hf hh => ?_⟩
  obtain ⟨hturn, hrest⟩ := nextFrameTurn_isFrame hf hh
  exact ⟨_, step_frame_rxf hp hq hturn hq, rfl, setOk_resultBytes f _, rfl, rfl, rfl, holds_congr hrest rfl rfl, rfl⟩

/-- Settles O23: the fetch of each sequencer state, and for a reply the turn that delivers it. -/
theorem stepRunsTheDecodedInstruction : Obligations.StepRunsTheDecodedInstruction := by
  intro s i hp
  refine ⟨fun w rest hq hh hd => step_host hp hq hh hd, fun f hq hf hd => step_tx hp hq hf hd,
    fun f rest hq hf hl hh hd => ?_⟩
  obtain ⟨hturn, hrest⟩ := nextFrameTurn_isFrame hf hh
  exact ⟨_, hrest, rfl, step_frame_reply hp hq hturn rfl hl hd⟩

/-! ## Error codes and categories (R74, R81, R82) -/

theorem errorCode_exchange (k : ErrorKind) {s : State} (hq : s.seq = .rx1 ∨ s.seq = .rx2) :
    errorCode k s = .next (psDeviceError k s) := by
  rcases hq with hq | hq <;> simp only [errorCode, hq]

theorem errorCode_elsewhere (k : ErrorKind) {s : State} (h1 : s.seq ≠ .rx1) (h2 : s.seq ≠ .rx2) :
    errorCode k s = .next s := by
  cases hq : s.seq <;> simp_all [errorCode]

/-- The row of an error code runs `errorCode` of its kind (R81, R82). -/
theorem exec_of_decodeErrorCode {c : Byte} {i : Instr} (h : decode .errorCode [c] = .ok i) (s : State) :
    exec i s = errorCode (errorKindOf c) s := by
  by_cases hc : c ∈ namedErrorCodes
  · rcases mem_namedErrorCodes.1 hc with rfl | rfl | rfl | rfl | rfl | rfl <;> cases h <;> rfl
  · cases (decodeErrorCode_of_not_named hc).symm.trans h
    rw [errorKindOf_of_not_named hc]
    rfl

/-- An error code in an exchange ends it with DEVICE_ERROR and its code (R174, R176). -/
theorem errorCode_ends_exchange {k : ErrorKind} {n : Byte} {s : State} (hq : s.seq = .rx1 ∨ s.seq = .rx2)
    (hn : errorCodeOf k = n) :
    ∃ t, errorCode k s = .next t ∧ t.resCode.code = 0x01 ∧ t.resDetail = n ∧ t.seq = .idle ∧
      t = { s with resCode := t.resCode, resDetail := t.resDetail, seq := t.seq } := by
  rw [errorCode_exchange k hq, psDeviceError, endError_deviceError]
  exact ⟨_, rfl, rfl, hn, rfl, rfl⟩

theorem checkCategory_ok {c : Byte} {s : State} (hc : c ∈ s.categoryCodes) : checkCategory c s = .next s :=
  if_pos ((admitted_iff c s).2 hc)

/-- Settles O43: each error row is `errorCode` of its kind, as the Error reply is; the category rows pass
their check. -/
theorem errorAndCategoryCodes : Obligations.ErrorAndCategoryCodes := by
  refine ⟨fun s c hq i n hmem => ?_, fun s r i hq hd => ?_, fun s => ?_⟩
  · simp only [List.mem_cons, List.not_mem_nil, or_false, Prod.mk.injEq] at hmem
    rcases hmem with ⟨rfl, rfl⟩ | ⟨rfl, rfl⟩ | ⟨rfl, rfl⟩ | ⟨rfl, rfl⟩ | ⟨rfl, rfl⟩ | ⟨rfl, rfl⟩ | ⟨rfl, rfl⟩ <;>
    exact errorCode_ends_exchange hq rfl
  · rw [exec_of_decodeErrorCode hd, errorCode_exchange _ hq]
    exact onReply_exchange _ _ hq
  · have h4 := mem_categoryCodes (c := 0x04) s (.inl rfl)
    have h6 := mem_categoryCodes (c := 0x06) s (.inr rfl)
    refine ⟨h4, h6, fun c => ?_, checkCategory_ok h4, checkCategory_ok h6⟩
    simp only [State.categoryCodes, Config.defaultCategoryCodes, List.mem_append, List.mem_cons, List.not_mem_nil,
      or_false, or_assoc]

/-! ## Rows where no rule handles them (R221) -/

theorem transmit_elsewhere (f : List Byte) {s : State} (hq : s.seq ≠ .tx) : transmit f s = .next s := by
  cases h : s.seq <;> simp_all [transmit]

/-- Settles O44: `transmit`, `onReply` and `errorCode` answer the state itself elsewhere; in RXF a reply is returned. -/
theorem frameRowsElsewhere : Obligations.FrameRowsElsewhere := by
  intro s
  refine ⟨fun r hq => ⟨transmit_elsewhere _ hq, transmit_elsewhere _ hq⟩, fun n r hq => ?_, fun c i h1 h2 hd => ?_,
    fun n r hq => ?_⟩
  · rw [exec_replyRow, onReply_elsewhere _ _ hq]
  · rw [exec_of_decodeErrorCode hd, errorCode_elsewhere _ h1 h2]
  · exact ⟨_, (exec_replyRow n r s).trans (onReply_rxf _ _ hq), setOk_resultBytes _ s, rfl, rfl, rfl, rfl, rfl⟩

end Sys2Proof.Machine
end

section
/-!
The invariant (spec 10_state.md sections 2 to 6): it holds at reset, every update by which a step answers keeps it, and
so does every step.
-/
namespace Sys2Proof.Machine

/-! ## Which registers it speaks of -/

/-- No full buffer with a terminator is held (R23). -/
def settled (s : State) : Prop := ∃ bs, holds s bs ∧ (bs.length = Config.bufCap → Config.term ∉ bs)

/-- The invariant does not speak of the agents' parts, of `suspect`, or of the address and socket of PARSE. -/
theorem Inv.of_agents {s : State} (h : Inv s) (addr socket : Option Nibble) (suspect : Bool) (host : List HostWord)
    (script : List ChanAnswer) (issued : List ChanTxn) (powerOn : Bool) (cats : List Byte) :
    Inv { s with
      resAddr := addr, resSocket := socket, suspect := suspect, host := host, script := script, issued := issued,
      powerOn := powerOn, extraCategories := cats } :=
  ⟨h.rx, h.cause, h.txCells, h.txLen, h.txRequest, h.resCells, h.resLen, h.resBytes, h.detail⟩

/-- The reset state meets the invariant (R35). -/
theorem inv_reset : Inv State.reset where
  rx := ⟨[], ⟨by decide, rfl, rfl⟩, fun _ => nofun⟩
  cause := by decide
  txCells := noCells_length
  txLen := nofun
  txRequest := nofun
  resCells := noCells_length
  resLen := by decide
  resBytes := ⟨[], rfl⟩
  detail := rfl

/-- Settles O2: `inv_reset`, and the launch premise is read off the reset state. -/
theorem invariantHoldsAtReset : Obligations.InvariantHoldsAtReset :=
  ⟨inv_reset, rfl, rfl, rfl, rfl⟩

/-- A reset of the block leaves the reset registers, whatever it is reset from (R200). -/
theorem inv_resetBlock (s : State) : Inv (resetBlock s) :=
  inv_reset.of_agents _ _ _ s.host s.script s.issued s.powerOn s.extraCategories

theorem inv_powerOnReset (s : State) : Inv (powerOnReset s) :=
  inv_reset.of_agents _ _ _ s.host s.script s.issued false s.extraCategories

/-- Settles O4: a step with the input asserted is the power-on reset. -/
theorem powerOnResetAbandonsAnyOperation : Obligations.PowerOnResetAbandonsAnyOperation :=
  fun _ => ⟨_, step_powerOn rfl, rfl⟩

/-! ## Updates of the result registers -/

theorem Inv.setError {s : State} (h : Inv s) {c : ResCode} {d : Byte} (hd : detailInTable s.resClass d c) :
    Inv (setError c d s) :=
  ⟨h.rx, h.cause, h.txCells, h.txLen, h.txRequest, h.resCells, h.resLen, h.resBytes, hd⟩

/-- A result that fits `res_data`, with OK and a detail that the table lets it have (R27, R211). -/
theorem Inv.setResult {s : State} (h : Inv s) {bs : List Byte} {cls : ResClass} {d : Byte} (hl : bs.length ≤ 16)
    (hd : d = 0 ∨ cls = .error) :
    Inv { s with
      resData := overlay bs s.resData, resLen := bs.length, resClass := cls, resCode := .ok, resDetail := d } where
  rx := h.rx
  cause := h.cause
  txCells := h.txCells
  txLen := h.txLen
  txRequest := h.txRequest
  resCells := (overlay_length _ _ (hl.trans_eq h.resCells.symm)).trans h.resCells
  resLen := hl
  resBytes := ⟨bs, readCells_overlay bs s.resData⟩
  detail := hd

theorem Inv.setOk {s : State} (h : Inv s) {bs : List Byte} (hl : bs.length ≤ 16) : Inv (setOk bs s) :=
  h.setResult (cls := s.resClass) hl (.inl rfl)

theorem Inv.parsed {s : State} (h : Inv s) (f : List Byte) {c : ResClass} {p : Option (List Byte)} {d : Byte}
    (hl : (p.getD []).length ≤ 16) (hd : d = 0 ∨ c = .error) : Inv (parsed f c p d s) :=
  (h.setResult hl hd).of_agents _ _ _ _ _ _ _ _

/-- The detail of FAULTED is the cause, which is set in FAULT (R203, R29). -/
theorem Inv.faulted {s : State} (h : Inv s) (hq : s.seq = .fault) : Inv (faulted s) := by
  apply h.setError
  have hcause := h.cause.2 hq
  cases hc : s.faultCause with
  | none => exact absurd hc hcause
  | payloadTooLong => exact .inl rfl
  | addressOutOfRange => exact .inr rfl

/-! ## Updates of the sequencer -/

/-- A new sequencer state at rest, with a cause exactly in FAULT (R29); the buffer must be settled (R23). -/
theorem Inv.withRest {s : State} (h : Inv s) {q : Seq} {c : FaultCause} (hs : settled s) (hc : c ≠ .none ↔ q = .fault)
    (hq : q ≠ .tx) : Inv { s with seq := q, faultCause := c } where
  rx := hs.imp fun _ hb => hb.imp_right fun hn _ => hn
  cause := hc
  txCells := h.txCells
  txLen := h.txLen
  txRequest := fun e => absurd e hq
  resCells := h.resCells
  resLen := h.resLen
  resBytes := h.resBytes
  detail := h.detail

theorem Inv.cause_eq_none {s : State} (h : Inv s) (hq : s.seq ≠ .fault) : s.faultCause = .none := by
  by_contra hc
  exact hq (h.cause.1 hc)

/-- An operation ends in IDLE (R179). -/
theorem Inv.toIdle {s : State} (h : Inv s) (hs : settled s) (hq : s.seq ≠ .fault) : Inv { s with seq := .idle } :=
  h.withRest (c := s.faultCause) hs (by simp [h.cause_eq_none hq]) nofun

/-- SR goes on, or begins, to collect a frame, with any content of the buffer (R22). -/
theorem Inv.toReceiving {s : State} (h : Inv s) {q : Seq} {cells : List (Option Byte)} {n : Nat}
    (hb : ∃ bs, holds { s with rxBuf := cells, rxCnt := n } bs) (hq : q.receiving = true) (hf : s.seq ≠ .fault) :
    Inv { s with rxBuf := cells, rxCnt := n, seq := q } where
  rx := hb.imp fun _ hb => ⟨hb, fun hno => by cases hq.symm.trans hno⟩
  cause := by
    have hq' : q ≠ .fault := by rintro rfl; cases hq
    simp [h.cause_eq_none hf, hq']
  txCells := h.txCells
  txLen := h.txLen
  txRequest := by rintro rfl; cases hq
  resCells := h.resCells
  resLen := h.resLen
  resBytes := h.resBytes
  detail := h.detail

/-- The buffer is settled in every state in which SR is not at work (R23). -/
theorem Inv.settled_of_not_receiving {s : State} (h : Inv s) (hq : s.seq.receiving = false) : settled s :=
  h.rx.imp fun _ hb => hb.imp_right fun hn => hn hq

theorem ne_fault_of_receiving {q : Seq} (hq : q.receiving = true) : q ≠ .fault := by
  rintro rfl
  cases hq

/-- What can be read from the buffer is what it holds (R21). -/
theorem Inv.holds_of_held {s : State} {bs : List Byte} (h : Inv s) (hh : held s = some bs) : holds s bs := by
  obtain ⟨bs', hheld, hb⟩ := held_of_inv h
  cases hheld.symm.trans hh
  exact hb

theorem Inv.holds_some {s : State} (h : Inv s) : ∃ bs, holds s bs :=
  h.rx.imp fun _ hb => hb.1

/-- The FAULT entry (R216). -/
theorem Inv.enterFault {s : State} (h : Inv s) (hq : s.seq = .idle) {c : FaultCause} {v : Byte} (hc : c ≠ .none)
    (hd : detailInTable s.resClass v (faultResCode c)) : Inv (enterFault c v s) :=
  (h.setError hd).withRest (h.settled_of_not_receiving (by rw [hq]; rfl)) (by simp [hc]) nofun

/-- TRANSACT's latch of a request frame (R171). -/
theorem Inv.latchRequest {s : State} (h : Inv s) (hq : s.seq = .idle) (k : Kind) {r : Request} (hw : r.wf = true) :
    Inv { latch (enc r.addr k r.cat r.payload) s with seq := .tx } := by
  have hp : r.payload.length ≤ 12 := of_decide_eq_true hw
  have hl : (enc r.addr k r.cat r.payload).length ≤ s.txFrame.length := by
    rw [enc_length, h.txCells, Config.maxFrame]
    omega
  exact
    { rx := (h.settled_of_not_receiving (by rw [hq]; rfl)).imp fun _ hb => hb.imp_right fun hn _ => hn
      cause := by simp [h.cause_eq_none (by rw [hq]; exact nofun)]
      txCells := (overlay_length _ _ hl).trans h.txCells
      txLen := by
        rintro n ⟨⟩
        rw [enc_length, Config.maxFrame]
        omega
      txRequest := fun _ => ⟨k, r, hw, latch_txBytes _ s⟩
      resCells := h.resCells
      resLen := h.resLen
      resBytes := h.resBytes
      detail := h.detail }

/-! ## The steps -/

/-- A host operation keeps the invariant. -/
theorem HostEffect.inv {i : Instr} {s t : State} (heff : HostEffect i s t) (h : Inv s) : Inv t := by
  cases heff with
  | faulted _ hq => exact h.faulted hq
  | reset => exact inv_resetBlock s
  | enterFault c v hq hc hd => exact h.enterFault hq hc hd
  | error c d _ _ hd => exact h.setError hd
  | ok f _ hl => exact h.setOk hl
  | parsed f c p d _ hl hd => exact h.parsed f hl hd
  | nextFrame hq => exact h.toReceiving h.holds_some rfl (by rw [hq]; exact nofun)
  | transact k r hq hw => exact h.latchRequest hq k hw

theorem Inv.endError {s : State} (h : Inv s) (hs : settled s) (hq : s.seq ≠ .fault) {c : ResCode} {d : Byte}
    (hd : detailInTable s.resClass d c) : Inv (endError c d s) :=
  ((h.setError hd).toIdle hs hq).of_agents _ _ _ _ _ _ _ _

theorem Inv.receiveFail {s : State} (h : Inv s) (hs : settled s) (hq : s.seq ≠ .fault) {c : ResCode} {d : Byte}
    (hd : detailInTable s.resClass d c) : Inv (receiveFail c d s) := by
  rw [receiveFail_eq]
  exact ((h.setError hd).toIdle hs hq).of_agents _ _ _ _ _ _ _ _

/-- A frame delivered with the buffer settled behind it keeps the invariant. -/
theorem FrameEffect.inv {f : List Byte} {s t : State} (heff : FrameEffect f s t) (h : Inv s) (hs : settled s)
    (hq : s.seq ≠ .fault) (hf : f.length ≤ Config.bufCap) : Inv t := by
  cases heff with
  | returned => exact (h.setOk hf).toIdle hs hq
  | ack => exact h.toReceiving h.holds_some rfl hq
  | completion p _ hl => exact (h.setOk (hl.trans (by decide))).toIdle hs hq
  | deviceError c => exact h.endError hs hq trivial
  | proto c d _ _ hd => exact h.endError hs hq hd

theorem Inv.transacted {s : State} (h : Inv s) (t : ChanTxn) (rest : List ChanAnswer) : Inv (transacted t rest s) :=
  h.of_agents _ _ _ _ _ _ _ _

/-- A write goes on to RX1 or ends the exchange, and keeps the invariant (R172). -/
theorem chanWrite_inv {f : List Byte} {s t : State} (h : Inv s) (hq : s.seq = .tx) (hw : chanWrite f s = .next t) :
    Inv t := by
  have hnf : s.seq ≠ .fault := by rw [hq]; exact nofun
  have hs : settled s := h.settled_of_not_receiving (by rw [hq]; rfl)
  obtain ⟨rest, -, rfl⟩ | ⟨a, rest, d, -, -, rfl⟩ := chanWrite_next hw
  · exact (h.transacted _ _).toReceiving h.holds_some rfl hnf
  · exact (h.transacted _ _).endError hs hnf trivial

/-- A read keeps the invariant: what it appends fits the free space (R143). -/
theorem chanRead_inv {s t : State} {bs : List Byte} (h : Inv s) (hq : s.seq.receiving = true) (hb : holds s bs)
    (hn : Config.term ∉ bs) (hread : chanRead s = .next t) : Inv t := by
  have hnf := ne_fault_of_receiving hq
  obtain ⟨-, rfl⟩ | ⟨rest, -, rfl⟩ | ⟨new, rest, -, -, hl, rfl⟩ | ⟨a, rest, d, -, -, rfl⟩ := chanRead_next hread
  · exact h
  · exact h.transacted _ _
  · have hroom : bs.length + new.length ≤ Config.bufCap := by
      have := hb.1
      rw [hb.2.2] at hl
      omega
    rw [append_eq new _ bs (transacted_holds _ _ hb) hroom]
    exact (h.transacted _ _).toReceiving
      ⟨bs ++ new, holds_cellsOf (s := Machine.transacted _ rest s) (by rwa [List.length_append])⟩ hq hnf
  · exact (h.transacted _ _).receiveFail ⟨bs, hb, fun _ => hn⟩ hnf trivial

/-- Taking a frame out of the buffer leaves room, so that the rest is settled (R23, R142). -/
theorem shift_settled {s : State} {bs : List Byte} {p : Nat} (hb : holds s bs) (hp : firstTerm bs = some p) :
    settled (shift (p + 1) s) := by
  obtain ⟨g, rest, rfl, -, rfl⟩ := firstTerm_some hp
  refine ⟨_, shift_holds _ hb, fun hfull => ?_⟩
  have hcap := hb.1
  rw [List.length_drop] at hfull
  rw [hfull.symm] at hcap
  simp at hcap
  omega

theorem step_inv {s t : State} (h : Inv s) (hstep : step s = .next t) : Inv t := by
  cases hp : s.powerOn with
  | true =>
    cases (step_powerOn hp).symm.trans hstep
    exact inv_powerOnReset s
  | false =>
    cases step_effect hp hstep with
    | wait => exact h
    | host w rest i t _ _ _ _ heff => exact heff.inv (h.of_agents _ _ _ _ _ _ _ _)
    | transmit f t hq _ hw => exact chanWrite_inv h hq hw
    | frame bs p t hq hh hf heff =>
      have hb := h.holds_of_held hh
      have hnf := ne_fault_of_receiving hq
      have hshift := h.toReceiving ⟨_, shift_holds (p + 1) hb⟩ hq hnf
      exact heff.inv hshift (shift_settled hb hf) hnf ((List.length_take_le' _ _).trans hb.1)
    | full bs hq hh hn => exact h.receiveFail ⟨bs, h.holds_of_held hh, fun _ => hn⟩ (ne_fault_of_receiving hq) rfl
    | read bs t hq hh hn _ hread => exact chanRead_inv h hq (h.holds_of_held hh) hn hread

/-- Settles O57, by the cases of a step: each update by which it answers keeps the invariant. -/
theorem everyStepKeepsTheInvariant : Obligations.EveryStepKeepsTheInvariant :=
  fun _ _ => step_inv

end Sys2Proof.Machine
end

section
/-!
The moves of a step (spec 10_state.md R25, 20_memory.md R59, 42_handshake.md R183): what it takes from the agents, which
transaction it makes, and where the sequencer goes.
-/
namespace Sys2Proof.Machine

/-! ## What an answer leaves to the agents -/

/-- The host's program, the channel's script, the record of transactions and the power-on input are as they were. -/
structure SameAgents (s t : State) : Prop where
  host : t.host = s.host
  script : t.script = s.script
  issued : t.issued = s.issued
  powerOn : t.powerOn = s.powerOn

/-- The channel has answered one transaction, which stands in the record (R57). -/
structure OneTransaction (x : ChanTxn) (s t : State) : Prop where
  host : t.host = s.host
  script : ∃ a, s.script = a :: t.script
  issued : t.issued = s.issued ++ [x]
  powerOn : t.powerOn = s.powerOn

theorem HostEffect.sameAgents {i : Instr} {s t : State} (h : HostEffect i s t) : SameAgents s t := by
  cases h <;> exact ⟨rfl, rfl, rfl, rfl⟩

theorem FrameEffect.sameAgents {f : List Byte} {s t : State} (h : FrameEffect f s t) : SameAgents s t := by
  cases h <;> exact ⟨rfl, rfl, rfl, rfl⟩

theorem receiveFail_sameAgents (c : ResCode) (d : Byte) (s : State) : SameAgents s (receiveFail c d s) := by
  rw [receiveFail_eq]
  exact ⟨rfl, rfl, rfl, rfl⟩

theorem OneTransaction.of_sameAgents {x : ChanTxn} {a : ChanAnswer} {rest : List ChanAnswer} {s t : State}
    (hs : s.script = a :: rest) (h : SameAgents (transacted x rest s) t) : OneTransaction x s t :=
  ⟨h.host, ⟨a, hs.trans (congrArg _ h.script.symm)⟩, h.issued, h.powerOn⟩

/-! ## Where the sequencer goes -/

/-- A host operation leaves IDLE for TX, RXF or FAULT, or answers at once; from FAULT only RESET leaves (R25, R203). -/
theorem HostEffect.seq {i : Instr} {s t : State} (h : HostEffect i s t) :
    s.seq = .idle ∧ t.seq ∈ ([.idle, .tx, .rxf, .fault] : List Seq) ∨
      s.seq = .fault ∧ t.seq ∈ ([.fault, .idle] : List Seq) := by
  cases h with
  | faulted _ hq => exact .inr ⟨hq, by simp [hq]⟩
  | reset _ hq => exact hq.imp (fun hq => ⟨hq, by simp⟩) fun hq => ⟨hq, by simp⟩
  | enterFault c v hq => exact .inl ⟨hq, by simp⟩
  | error c d hq => exact .inl ⟨hq, by simp [hq]⟩
  | ok f hq => exact .inl ⟨hq, by simp [hq]⟩
  | parsed f c p d hq => exact .inl ⟨hq, by simp [hq]⟩
  | nextFrame hq => exact .inl ⟨hq, by simp⟩
  | transact k r hq => exact .inl ⟨hq, by simp⟩

/-- A delivered frame ends the operation, unless it is the first Ack of an exchange (R174). -/
theorem FrameEffect.seq {f : List Byte} {s t : State} (h : FrameEffect f s t) :
    t.seq = .idle ∨ s.seq = .rx1 ∧ t.seq = .rx2 := by
  cases h with
  | returned => exact .inl rfl
  | ack hq => exact .inr ⟨hq, rfl⟩
  | completion => exact .inl rfl
  | deviceError => exact .inl rfl
  | proto => exact .inl rfl

theorem receiveFail_seq (c : ResCode) (d : Byte) (s : State) : (receiveFail c d s).seq = .idle := by
  rw [receiveFail_eq]

/-- A write ends TX (R172). -/
theorem chanWrite_moves {f : List Byte} {s t : State} (h : chanWrite f s = .next t) :
    OneTransaction (.write f) s t ∧ (t.seq = .rx1 ∨ t.seq = .idle) := by
  obtain ⟨rest, hs, rfl⟩ | ⟨a, rest, d, hs, -, rfl⟩ := chanWrite_next h
  · exact ⟨.of_sameAgents hs ⟨rfl, rfl, rfl, rfl⟩, .inl rfl⟩
  · exact ⟨.of_sameAgents hs ⟨rfl, rfl, rfl, rfl⟩, .inr rfl⟩

/-- A read waits, goes on collecting or fails (R143 to R149). -/
theorem chanRead_moves {s t : State} (h : chanRead s = .next t) :
    (s.script = [] ∧ t = s) ∨
      OneTransaction (.read (Config.bufCap - s.rxCnt)) s t ∧ (t.seq = s.seq ∨ t.seq = .idle) := by
  obtain ⟨hs, rfl⟩ | ⟨rest, hs, rfl⟩ | ⟨bs, rest, hs, -, -, rfl⟩ | ⟨a, rest, d, hs, -, rfl⟩ := chanRead_next h
  · exact .inl ⟨hs, rfl⟩
  · exact .inr ⟨.of_sameAgents hs ⟨rfl, rfl, rfl, rfl⟩, .inl rfl⟩
  · exact .inr ⟨.of_sameAgents hs ⟨append_host .., append_script .., append_issued .., append_powerOn ..⟩,
      .inl (append_seq ..)⟩
  · exact .inr ⟨.of_sameAgents hs (receiveFail_sameAgents ..), .inr (receiveFail_seq ..)⟩

/-! ## The moves of a step -/

/-- The moves of a step, with the power-on reset input not asserted: it waits; it takes an operation of the host; it
makes the one write of TX; it delivers a frame or fails on a full buffer, with no transaction; or it makes a read. -/
inductive StepMove (s t : State) : Prop where
  | waits : t = s → ended s ∨ stuck s → StepMove s t
  | issues (w : HostWord) (rest : List HostWord) :
      s.host = w :: rest → SameAgents { s with host := rest } t →
      s.seq = .idle ∧ t.seq ∈ ([.idle, .tx, .rxf, .fault] : List Seq) ∨
        s.seq = .fault ∧ t.seq ∈ ([.fault, .idle] : List Seq) → StepMove s t
  | writes (f : List Byte) :
      s.seq = .tx → txBytes s = some f → OneTransaction (.write f) s t → t.seq = .rx1 ∨ t.seq = .idle → StepMove s t
  | delivers :
      s.seq.receiving = true → SameAgents s t → t.seq = .idle ∨ s.seq = .rx1 ∧ t.seq = .rx2 → StepMove s t
  | reads (bs : List Byte) :
      s.seq.receiving = true → held s = some bs → Config.term ∉ bs →
      OneTransaction (.read (Config.bufCap - s.rxCnt)) s t → t.seq = s.seq ∨ t.seq = .idle → StepMove s t

/-- In a receive state the block asks for a read when no terminator is held and there is room (R141, R143). -/
theorem asks_isSome_iff {s : State} (hq : s.seq.receiving = true) :
    (asks s).isSome = true ↔ ∃ bs, held s = some bs ∧ Config.term ∉ bs ∧ s.rxCnt ≠ Config.bufCap := by
  have hasks : asks s = (held s).bind fun bs =>
      if Config.term ∈ bs ∨ s.rxCnt = Config.bufCap then none else some (.read (Config.bufCap - s.rxCnt)) := by
    cases hheld : held s <;> cases hseq : s.seq <;> simp_all [asks, Seq.receiving]
  rw [hasks]
  cases held s with
  | none => simp
  | some bs => simp [← not_or]

theorem step_moves {s t : State} (hp : s.powerOn = false) (h : step s = .next t) : StepMove s t := by
  cases step_effect hp h with
  | wait hq hh => exact .waits rfl (.inl ⟨hh, hq⟩)
  | host w rest i t _ hh _ _ heff => exact .issues w rest hh heff.sameAgents heff.seq
  | transmit f t hq hf hw => exact .writes f hq hf (chanWrite_moves hw).1 (chanWrite_moves hw).2
  | frame bs p t hq _ _ heff =>
    have hsame := heff.sameAgents
    exact .delivers hq ⟨hsame.host, hsame.script, hsame.issued, hsame.powerOn⟩ heff.seq
  | full bs hq => exact .delivers hq (receiveFail_sameAgents ..) (.inl (receiveFail_seq ..))
  | read bs t hq hh hn hc hr =>
    obtain ⟨hs, rfl⟩ | ⟨hone, hseq⟩ := chanRead_moves hr
    · exact .waits rfl (.inr ⟨hq, hs, (asks_isSome_iff hq).2 ⟨bs, hh, hn, hc⟩⟩)
    · exact .reads bs hq hh hn hone hseq

/-! ## The statements about one step -/

/-- Settles O7: in a busy state no step takes an operation of the host; one presented by hand fails the issue check. -/
theorem hostHasNoMoveWhileBusy : Obligations.HostHasNoMoveWhileBusy := by
  intro s hbusy
  refine ⟨fun t hp h => ?_, fun i hfmt => ?_⟩
  · cases step_moves hp h with
    | waits ht => rw [ht]
    | issues w rest _ _ hseq => rcases hbusy with hq | hq | hq | hq <;> simp [hq] at hseq
    | writes f _ _ hone => exact hone.host
    | delivers _ hsame => exact hsame.host
    | reads bs _ _ _ hone => exact hone.host
  · by_cases hi : i = .reset
    · subst hi
      rcases hbusy with hq | hq | hq | hq <;> simp only [exec, execReset, hq]
    · obtain ⟨run, hissue⟩ := exec_eq_issue s hfmt hi
      exact hissue.trans (issue_busy run hbusy)

/-- Where the sequencer can be after a step (R25). -/
def Seq.successors : Seq → List Seq
  | .idle => [.idle, .tx, .rxf, .fault]
  | .fault => [.fault, .idle]
  | .tx => [.rx1, .idle]
  | .rx1 => [.rx1, .rx2, .idle]
  | .rx2 => [.rx2, .idle]
  | .rxf => [.rxf, .idle]

/-- Every sequencer state but TX is one in which the block may stay. -/
theorem Seq.mem_successors_self {q : Seq} (hq : q ≠ .tx) : q ∈ q.successors := by
  cases q with
  | tx => exact absurd rfl hq
  | idle | fault | rx1 | rx2 | rxf => decide

theorem Seq.idle_mem_successors (q : Seq) : .idle ∈ q.successors := by
  cases q <;> decide

theorem ne_tx_of_ended_or_stuck {s : State} (h : ended s ∨ stuck s) : s.seq ≠ .tx := by
  intro hq
  rcases h with ⟨-, h | h⟩ | ⟨h, -⟩ <;> simp [hq, Seq.receiving] at h

theorem ne_tx_of_receiving {q : Seq} (hq : q.receiving = true) : q ≠ .tx := by
  rintro rfl
  cases hq

theorem StepMove.seq_mem_successors {s t : State} (h : StepMove s t) : t.seq ∈ s.seq.successors := by
  cases h with
  | waits ht hend =>
    rw [ht]
    exact Seq.mem_successors_self (ne_tx_of_ended_or_stuck hend)
  | issues w rest _ _ hseq => rcases hseq with ⟨hq, hm⟩ | ⟨hq, hm⟩ <;> rw [hq] <;> exact hm
  | writes f hq _ _ hseq => rcases hseq with ht | ht <;> rw [hq, ht] <;> decide
  | delivers _ _ hseq =>
    rcases hseq with ht | ⟨hq, ht⟩
    · rw [ht]
      exact Seq.idle_mem_successors _
    · rw [hq, ht]
      decide
  | reads bs hq _ _ _ hseq =>
    rcases hseq with ht | ht <;> rw [ht]
    · exact Seq.mem_successors_self (ne_tx_of_receiving hq)
    · exact Seq.idle_mem_successors _

/-- Settles O53: each clause is `Seq.successors` at one state. -/
theorem sequencerMoves : Obligations.SequencerMoves := by
  intro s t hp h
  have hmem : ∀ q, s.seq = q → t.seq ∈ q.successors := by
    rintro q rfl
    exact (step_moves hp h).seq_mem_successors
  exact ⟨hmem _, hmem _, hmem _, hmem _, hmem _, hmem _⟩

/-- Settles O54: of the moves only TX's write and a turn's read make a transaction. -/
theorem transactionsOfAStep : Obligations.TransactionsOfAStep := by
  intro s t hp h
  cases step_moves hp h with
  | waits ht hend => exact ⟨fun hq => absurd hq (ne_tx_of_ended_or_stuck hend), .inl (by rw [ht])⟩
  | issues w rest _ hsame hseq =>
    refine ⟨fun htx => ?_, .inl hsame.issued⟩
    simp [htx] at hseq
  | writes f hq hf hone =>
    obtain ⟨a, hs⟩ := hone.script
    exact ⟨fun _ => ⟨by rw [hs]; exact nofun, f, hf, hone.issued⟩, .inr (.inl hq)⟩
  | delivers hq hsame => exact ⟨fun e => absurd e (ne_tx_of_receiving hq), .inl hsame.issued⟩
  | reads bs hq hh hn hone =>
    exact ⟨fun e => absurd e (ne_tx_of_receiving hq), .inr (.inr ⟨hq, ⟨bs, hh, hn⟩, hone.issued⟩)⟩

/-- Settles O55: `chan_err_code` is at most 251, so the detail byte is its value and 4. -/
theorem otherChannelErrorsAreDistinguished : Obligations.OtherChannelErrorsAreDistinguished := by
  intro n
  have hge : 4 ≤ (chanErrDetail (.other n)).toNat := by
    have := (Config.chanErrOther n).isLt
    rw [chanErrDetail, BitVec.toNat_ofNat]
    omega
  have hne : ∀ d : Byte, d.toNat < 4 → chanErrDetail (.other n) ≠ d := by
    rintro d hd rfl
    omega
  exact ⟨hge, hne _ (by decide), hne _ (by decide), hne _ (by decide), hne _ (by decide)⟩

end Sys2Proof.Machine
end

section
/-!
No state of the invariant faults (spec 10_state.md R21, R26, 20_memory.md R55): the instructions never do, and what a
step reads before it runs one holds values.
-/
namespace Sys2Proof.Machine

/-! ## The instructions -/

theorem issue_ne_fault {run : Out} (s : State) {e : Fault} (h : run ≠ .fault e) : issue s run ≠ .fault e := by
  cases hq : s.seq with
  | idle => rwa [issue_idle _ hq]
  | fault => rw [issue_fault _ hq]; exact nofun
  | tx | rx1 | rx2 | rxf => rw [issue_busy _ (by simp [hq])]; exact nofun

theorem buildPhase_ne_fault (q : HostReq) (s : State) {run : List Byte → Out} {e : Fault} (h : ∀ f, run f ≠ .fault e) :
    buildPhase q s run ≠ .fault e := by
  unfold buildPhase
  split_ifs
  · exact nofun
  · exact nofun
  · exact nofun
  · exact h _

theorem parseResult_ne_fault (f : List Byte) (s : State) (e : Fault) : parseResult f s ≠ .fault e := by
  unfold parseResult
  split <;> exact nofun

theorem chanWrite_ne_fault (f : List Byte) (s : State) (e : Fault) : chanWrite f s ≠ .fault e := by
  unfold chanWrite
  split
  case h_2 => dsimp only; split_ifs <;> exact nofun
  all_goals exact nofun

theorem chanRead_ne_fault (s : State) (e : Fault) : chanRead s ≠ .fault e := by
  unfold chanRead
  dsimp only
  split
  case h_3 => split_ifs <;> exact nofun
  all_goals exact nofun

theorem transmit_ne_fault (f : List Byte) (s : State) (e : Fault) : transmit f s ≠ .fault e := by
  unfold transmit
  split
  case h_1 => exact chanWrite_ne_fault f s e
  all_goals exact nofun

theorem onReply_ne_fault (f : List Byte) (k : State → State) (s : State) (e : Fault) : onReply f k s ≠ .fault e := by
  unfold onReply
  split <;> exact nofun

theorem errorCode_ne_fault (k : ErrorKind) (s : State) (e : Fault) : errorCode k s ≠ .fault e := by
  unfold errorCode
  split <;> exact nofun

theorem checkCategory_ne_fault (c : Byte) (s : State) (e : Fault) : checkCategory c s ≠ .fault e := by
  unfold checkCategory
  split_ifs <;> exact nofun

theorem execTransact_ne_fault (q : HostReq) (s : State) (e : Fault) : execTransact q s ≠ .fault e :=
  issue_ne_fault s (buildPhase_ne_fault q s fun _ => nofun)

theorem execParse_ne_fault (n : BitVec 5) (f : List Byte) (s : State) (e : Fault) : execParse n f s ≠ .fault e := by
  apply issue_ne_fault
  split_ifs
  · exact nofun
  · exact parseResult_ne_fault _ s e

theorem execReset_ne_fault (s : State) (e : Fault) : execReset s ≠ .fault e := by
  unfold execReset
  split <;> exact nofun

/-- No instruction reads a cell without a value. -/
theorem exec_ne_fault (i : Instr) (s : State) (e : Fault) : exec i s ≠ .fault e := by
  cases i with
  | build q => exact issue_ne_fault s (buildPhase_ne_fault q s fun _ => nofun)
  | parse n f => exact execParse_ne_fault n f s e
  | transact q => exact execTransact_ne_fault q s e
  | reset => exact execReset_ne_fault s e
  | nextFrame | reservedOp0 | reservedOp6 | reservedOp7 => exact issue_ne_fault s nofun
  | reqCommand r | reqInquiry r => exact transmit_ne_fault _ s e
  | rplAck r | rplCompletion r | rplError r | rplReservedType0 r | rplReservedType1 r | rplReservedType2 r
  | rplReservedType3 r | rplReservedType7 r | rplReservedType8 r | rplReservedType9 r | rplReservedTypeA r
  | rplReservedTypeB r | rplReservedTypeC r | rplReservedTypeD r | rplReservedTypeE r | rplReservedTypeF r =>
    exact onReply_ne_fault _ _ s e
  | errMsgLength | errSyntax | errFullBuffer | errCanceled | errNoSocket | errNotExecutable | errOther c =>
    exact errorCode_ne_fault _ s e
  | catCamera1 => exact checkCategory_ne_fault 0x04 s e
  | catPanTilter => exact checkCategory_ne_fault 0x06 s e
  | powerGet | powerSet | zoomGet | zoomSet | panTiltGet | panTiltSetAbsolute | panTiltSetRelative
  | panTiltJogOrStop | presetsSetResetRecall => exact execTransact_ne_fault _ s e

/-! ## The fetch -/

/-- What a fetch comes to when it is run. -/
def Fetched.result : Fetched → Out
  | .run i s => exec i s
  | .outcome o => o

theorem step_eq_result (s : State) : step s = (fetch s).result := by
  unfold step Fetched.result
  cases fetch s <;> rfl

theorem fetchDecoded_ne_fault (d : Decoded) (s : State) (e : Fault) : (fetchDecoded d s).result ≠ .fault e := by
  cases d with
  | ok i => exact exec_ne_fault i s e
  | reject r => exact nofun

theorem fetchHost_ne_fault (s : State) (e : Fault) : (fetchHost s).result ≠ .fault e := by
  unfold fetchHost
  split
  · exact nofun
  · exact fetchDecoded_ne_fault _ _ e

theorem fetchFrame_ne_fault (f : List Byte) (s : State) (e : Fault) : (fetchFrame f s).result ≠ .fault e := by
  unfold fetchFrame
  split
  · exact nofun
  · split_ifs
    · exact nofun
    · exact fetchDecoded_ne_fault _ _ e

/-- The latched frame of TX holds values (R26, R171). -/
theorem Inv.fetchTx_ne_fault {s : State} (h : Inv s) (hq : s.seq = .tx) (e : Fault) :
    (fetchTx s).result ≠ .fault e := by
  obtain ⟨k, r, -, htx⟩ := h.txRequest hq
  simp only [fetchTx, htx]
  exact fetchDecoded_ne_fault _ _ e

/-- The held bytes hold values (R21). -/
theorem Inv.fetchReceive_ne_fault {s : State} (h : Inv s) (e : Fault) : (fetchReceive s).result ≠ .fault e := by
  obtain ⟨bs, hheld, -⟩ := held_of_inv h
  unfold fetchReceive nextFrameTurn
  rw [hheld]
  dsimp only
  cases firstTerm bs with
  | some p => exact fetchFrame_ne_fault _ _ e
  | none =>
    by_cases hc : s.rxCnt = Config.bufCap
    · simp only [hc, if_true]
      exact nofun
    · simp only [hc, if_false]
      exact chanRead_ne_fault s e

theorem Inv.step_ne_fault {s : State} (h : Inv s) (e : Fault) : step s ≠ .fault e := by
  rw [step_eq_result, fetch]
  split_ifs
  · exact nofun
  · cases hq : s.seq with
    | idle | fault => exact fetchHost_ne_fault s e
    | tx => exact h.fetchTx_ne_fault hq e
    | rx1 | rx2 | rxf => exact h.fetchReceive_ne_fault e

/-! ## Reachable states -/

theorem Move.inv {s t : State} (hmove : Move s t) (h : Inv s) : Inv t := by
  cases hmove with
  | block t hstep => exact step_inv h hstep
  | host w => exact h.of_agents _ _ _ _ _ _ _ _
  | channel a => exact h.of_agents _ _ _ _ _ _ _ _
  | powerOn => exact h.of_agents _ _ _ _ _ _ _ _

theorem Reachable.inv {s : State} (h : Reachable s) : Inv s := by
  induction h with
  | reset cats => exact inv_reset.of_agents _ _ _ _ _ _ _ _
  | move s t _ hmove ih => exact hmove.inv ih

/-- Settles O58: every move keeps the invariant, under which no step faults. -/
theorem reachableStatesMeetTheInvariantAndNeverFault : Obligations.ReachableStatesMeetTheInvariantAndNeverFault :=
  fun _ h => ⟨h.inv, h.inv.step_ne_fault⟩

end Sys2Proof.Machine
end

section
/-!
The ends of runs (spec 70_reset_and_hazards.md section 4, R252): a run of a program has a measure that every step lowers,
but for the steps of ended and stuck states.
-/
namespace Sys2Proof.Machine

/-- The most steps TRANSACT and NEXT_FRAME can still take without an answer of the channel. -/
def Seq.rank : Seq → Nat
  | .idle => 0
  | .fault => 0
  | .tx => 3
  | .rx1 => 2
  | .rx2 => 1
  | .rxf => 1

/-- A measure of what is left of a run: the host's operations, the channel's answers and the operation in progress. -/
def State.remaining (s : State) : Nat := 4 * s.host.length + s.script.length + s.seq.rank

theorem Seq.rank_le (q : Seq) : q.rank ≤ 3 := by
  cases q <;> decide

theorem Seq.rank_pos_of_receiving {q : Seq} (hq : q.receiving = true) : 0 < q.rank := by
  cases q with
  | idle | tx | fault => cases hq
  | rx1 | rx2 | rxf => decide

/-- A step that does not wait lowers the measure. -/
theorem StepMove.remaining_lt {s t : State} (h : StepMove s t) :
    (t = s ∧ (ended s ∨ stuck s)) ∨ t.remaining < s.remaining := by
  cases h with
  | waits ht hend => exact .inl ⟨ht, hend⟩
  | issues w rest hh hsame =>
    right
    have hhost : t.host = rest := hsame.host
    have hscript : t.script = s.script := hsame.script
    have := t.seq.rank_le
    simp only [State.remaining, hh, hhost, hscript, List.length_cons]
    omega
  | writes f hq _ hone hseq =>
    right
    obtain ⟨a, hs⟩ := hone.script
    have hrank : t.seq.rank ≤ s.seq.rank := by rcases hseq with ht | ht <;> rw [hq, ht] <;> decide
    simp only [State.remaining, hs, hone.host, List.length_cons]
    omega
  | delivers hq hsame hseq =>
    right
    have hrank : t.seq.rank < s.seq.rank := by
      rcases hseq with ht | ⟨hq1, ht⟩
      · rw [ht]
        exact Seq.rank_pos_of_receiving hq
      · rw [hq1, ht]
        decide
    simp only [State.remaining, hsame.host, hsame.script]
    omega
  | reads bs _ _ _ hone hseq =>
    right
    obtain ⟨a, hs⟩ := hone.script
    have hrank : t.seq.rank ≤ s.seq.rank := by
      rcases hseq with ht | ht <;> rw [ht]
      exact Nat.zero_le _
    simp only [State.remaining, hs, hone.host, List.length_cons]
    omega

theorem StepMove.powerOn {s t : State} (h : StepMove s t) : t.powerOn = s.powerOn := by
  cases h with
  | waits ht => rw [ht]
  | issues w rest _ hsame => exact hsame.powerOn
  | writes f _ _ hone => exact hone.powerOn
  | delivers _ hsame => exact hsame.powerOn
  | reads bs _ _ _ hone => exact hone.powerOn

/-- A stuck block waits for the answer of a read (R226). -/
theorem step_stuck {s : State} (hp : s.powerOn = false) (h : stuck s) : step s = .next s := by
  obtain ⟨hq, hs, hasks⟩ := h
  obtain ⟨bs, hh, hn, hc⟩ := (asks_isSome_iff hq).1 hasks
  apply step_outcome hp hq
  simp only [nextFrameTurn, hh, firstTerm_eq_none.2 hn, hc, if_false, chanRead, hs]

theorem step_self_iff {s : State} (hp : s.powerOn = false) : step s = .next s ↔ ended s ∨ stuck s := by
  constructor
  · intro h
    obtain ⟨-, hend⟩ | hlt := (step_moves hp h).remaining_lt
    · exact hend
    · exact absurd hlt (lt_irrefl _)
  · rintro (⟨hh, hq⟩ | hstuck)
    · exact step_wait hp hq hh
    · exact step_stuck hp hstuck

theorem not_ended_and_stuck (s : State) : ¬(ended s ∧ stuck s) := by
  rintro ⟨⟨-, hq⟩, hr, -⟩
  rcases hq with hq | hq <;> rw [hq] at hr <;> cases hr

/-- A run from a state of the invariant ends, is stuck or is refused, by induction on what is left of it. -/
theorem runProgram_comes_to_an_end {s : State} (h : Inv s) (hp : s.powerOn = false) :
    ∃ k, (∃ o, runProgram k s = .ended o) ∨ runProgram k s = .stuck ∨ ∃ r, runProgram k s = .refused r := by
  by_cases he : ended s
  · exact ⟨0, .inl ⟨_, runProgram_ended 0 he⟩⟩
  by_cases hs : stuck s
  · exact ⟨0, .inr (.inl (runProgram_stuck 0 he hs))⟩
  cases hstep : step s with
  | fault e => exact absurd hstep (h.step_ne_fault e)
  | refused r => exact ⟨1, .inr (.inr ⟨r, runProgram_refused 0 he hs hstep⟩)⟩
  | next t =>
    have hmove := step_moves hp hstep
    have hlt : t.remaining < s.remaining := hmove.remaining_lt.resolve_left fun hw => hw.2.elim he hs
    obtain ⟨k, hk⟩ := runProgram_comes_to_an_end (step_inv h hstep) (hmove.powerOn.trans hp)
    refine ⟨k + 1, ?_⟩
    rw [runProgram_next k he hs hstep]
    exact hk
termination_by s.remaining

/-- An observation is made of an ended state that the run has come to. -/
theorem ended_of_runProgram {k : Nat} {s : State} {o : Observation} (h : runProgram k s = .ended o) :
    ∃ j t, j ≤ k ∧ runSteps j s = .next t ∧ ended t ∧ o = ⟨t.statusView, t.framesWritten⟩ := by
  induction k generalizing s with
  | zero =>
    by_cases he : ended s
    · cases (runProgram_ended 0 he).symm.trans h
      exact ⟨0, s, le_rfl, rfl, he, rfl⟩
    · rw [runProgram, if_neg he] at h
      split_ifs at h
  | succ k ih =>
    by_cases he : ended s
    · cases (runProgram_ended (k + 1) he).symm.trans h
      exact ⟨0, s, Nat.zero_le _, rfl, he, rfl⟩
    · rw [runProgram, if_neg he] at h
      split_ifs at h
      cases hstep : step s with
      | fault e => rw [hstep] at h; cases h
      | refused r => rw [hstep] at h; cases h
      | next t =>
        rw [hstep] at h
        obtain ⟨j, u, hj, hrun, hu, ho⟩ := ih h
        exact ⟨j + 1, u, Nat.succ_le_succ hj, (runSteps_succ j hstep).trans hrun, hu, ho⟩

/-- Settles O60: waiting is `step_self_iff`; the end of a run is by the measure, and its observation by induction on the
steps. -/
theorem runsOfProgramsComeToAnEnd : Obligations.RunsOfProgramsComeToAnEnd := by
  refine ⟨fun s => step_self_iff, not_ended_and_stuck, fun p s h _ hp => ?_, fun k s o => ended_of_runProgram⟩
  exact runProgram_comes_to_an_end (h.of_agents _ _ _ p.ops p.script [] _ _) hp

end Sys2Proof.Machine
end

section
/-!
Runs with a channel (spec 70_reset_and_hazards.md section 3, R251): under a legal and fair channel every operation makes
progress until the machine is at rest; one that answers `Interrupted` for ever keeps it where it is.
-/
namespace Sys2Proof.Machine

/-- A bound on what an operation can still do: the stages before its end, and the free space to read into. -/
def State.patience (s : State) : Nat := 17 * s.seq.rank + (16 - s.rxCnt)

/-- A run has come from `s` nearer to rest, and the channel's next answer is open again. -/
structure Progress (s t : State) : Prop where
  inv : Inv t
  powerOn : t.powerOn = false
  script : t.script = []
  lt : t.patience < s.patience

theorem patience_lt_of_rank_lt {s t : State} (h : t.seq.rank < s.seq.rank) : t.patience < s.patience := by
  unfold State.patience
  omega

theorem rank_pos_of_not_atRest {s : State} (h : ¬ atRest s) : 0 < s.seq.rank := by
  cases hq : s.seq with
  | idle => exact absurd (.inl hq) h
  | fault => exact absurd (.inr hq) h
  | tx | rx1 | rx2 | rxf => decide

/-! ## A write and its answer (R172) -/

/-- A legal answer to a write has a meaning (R224). -/
theorem chanWrite_answers {f : List Byte} {s : State} {a : ChanAnswer} (hs : s.script = [a])
    (ha : answerShape (.write f) a) : ∃ t, chanWrite f s = .next t := by
  cases a with
  | wrote n =>
    obtain hlt | rfl := Nat.lt_or_eq_of_le (show n ≤ f.length from ha)
    · exact ⟨_, chanWrite_partial hlt hs⟩
    · exact ⟨_, chanWrite_whole hs⟩
  | werr e => exact ⟨_, chanWrite_error hs⟩
  | bytes | zero | interrupted | rerr => cases ha

theorem decodeRequest_enc (a : BitVec 3) (k : Kind) (c : Byte) {p : List Byte} (hp : p.length ≤ 12) :
    ∃ i, decode .request (enc a k c p) = .ok i ∧ ∀ s, exec i s = transmit (enc a k c p) s := by
  cases k with
  | command =>
    exact ⟨.reqCommand ⟨a, c, p⟩, by simp only [decode, decodeRequest, splitRequest_enc _ _ _ _ hp], fun _ => rfl⟩
  | inquiry =>
    exact ⟨.reqInquiry ⟨a, c, p⟩, by simp only [decode, decodeRequest, splitRequest_enc _ _ _ _ hp], fun _ => rfl⟩

/-- A step from TX writes the latched request frame (R172). -/
theorem step_tx_request {s : State} {k : Kind} {r : Request} (hp : s.powerOn = false) (hq : s.seq = .tx)
    (hw : r.wf = true) (hf : txBytes s = some (enc r.addr k r.cat r.payload)) :
    step s = chanWrite (enc r.addr k r.cat r.payload) s := by
  obtain ⟨i, hi, hexec⟩ := decodeRequest_enc r.addr k r.cat (of_decide_eq_true hw)
  rw [step_tx hp hq hf hi, hexec, transmit_tx _ hq]

theorem Channel.legal.write_progress {c : Channel} (hc : c.legal) (n : Nat) {s : State} (h : Inv s) (hq : s.seq = .tx)
    (hp : s.powerOn = false) (hs : s.script = []) : ∃ t, step (c.serve n s) = .next t ∧ Progress s t := by
  obtain ⟨k, r, hw, hf⟩ := h.txRequest hq
  have hserve := serve_write c n hs (by rw [asks_tx hq, hf]; rfl)
  obtain ⟨t, ht⟩ := chanWrite_answers (s := c.serve n s) (by rw [hserve]) (hc.1 n (enc r.addr k r.cat r.payload))
  rw [hserve] at ht ⊢
  have hstep := (step_tx_request (s := { s with script := [c.onWrite n _] }) hp hq hw hf).trans ht
  obtain ⟨hone, hseq⟩ := chanWrite_moves ht
  obtain ⟨a, ha⟩ := hone.script
  refine ⟨t, hstep, step_inv (h.of_agents _ _ _ _ _ _ _ _) hstep, hone.powerOn.trans hp, ?_, ?_⟩
  · exact (List.cons.inj ha).2.symm
  · apply patience_lt_of_rank_lt
    rcases hseq with ht | ht <;> rw [hq, ht] <;> decide

/-! ## A turn without a read (R142, R147) -/

/-- A held frame has a meaning in every receive state (R140, R173, R175). -/
theorem step_held_frame_answers {s : State} {g rest : List Byte} (hq : s.seq.receiving = true) (hp : s.powerOn = false)
    (hh : holds s (g ++ Config.term :: rest)) (hg : Config.term ∉ g) : ∃ t, step s = .next t := by
  have hturn := nextFrameTurn_frame hh hg
  by_cases hx : s.seq = .rxf
  · exact ⟨_, step_frame_rxf hp hx hturn hx⟩
  · have hr := exchange_of_receiving hq hx
    obtain hl | hl := Nat.lt_or_ge (g ++ [Config.term]).length 3
    · exact ⟨_, step_frame_short hp hr hturn rfl hl⟩
    · have hcap : g.length ≤ 15 := by
        have := hh.1
        rw [List.length_append, List.length_cons, Config.bufCap] at this
        omega
      obtain ⟨ty, r, hd, -⟩ := decodeReply_frame hg (by simpa using hl) hcap
      exact ⟨_, (step_frame_reply hp hr hturn rfl hl hd).trans (exec_replyRow_exchange ty r hr)⟩

/-- A step of a busy block that makes no transaction is progress. -/
theorem progress_of_delivers {s t : State} (h : Inv s) (hp : s.powerOn = false) (hs : s.script = [])
    (hstep : step s = .next t) (hrest : ¬ atRest s) (hasks : asks s = none) (hq : s.seq ≠ .tx) : Progress s t := by
  have hmove := step_moves hp hstep
  have hpow := hmove.powerOn.trans hp
  cases hmove with
  | waits _ hend =>
    rcases hend with ⟨-, hr⟩ | ⟨-, -, hr⟩
    · exact absurd hr hrest
    · rw [hasks] at hr
      cases hr
  | issues w rest _ _ hseq => exact absurd (hseq.imp And.left And.left) hrest
  | writes f htx => exact absurd htx hq
  | delivers hr hsame hseq =>
    refine ⟨step_inv h hstep, hpow, hsame.script.trans hs, patience_lt_of_rank_lt ?_⟩
    rcases hseq with ht | ⟨hq1, ht⟩
    · rw [ht]
      exact rank_pos_of_not_atRest hrest
    · rw [hq1, ht]
      decide
  | reads bs _ _ _ hone =>
    obtain ⟨a, ha⟩ := hone.script
    rw [hs] at ha
    cases ha

/-! ## A read and its answer (R143 to R149) -/

/-- SR is collecting a frame that is not there yet, with room for more (R143). -/
structure Collecting (s : State) (h : List Byte) : Prop where
  receiving : s.seq.receiving = true
  powerOn : s.powerOn = false
  holds : holds s h
  noTerm : Config.term ∉ h
  room : h.length < Config.bufCap

theorem Collecting.asks {s : State} {h : List Byte} (hc : Collecting s h) :
    asks s = some (.read (Config.bufCap - s.rxCnt)) := by
  rw [asks_receiving hc.receiving hc.holds, if_neg]
  rw [hc.holds.2.2]
  exact not_or.2 ⟨hc.noTerm, hc.room.ne⟩

theorem Collecting.not_atRest {s : State} {h : List Byte} (hc : Collecting s h) : ¬ atRest s := by
  intro hr
  have hasks := hc.asks
  rw [asks_rest hr] at hasks
  cases hasks

/-- The channel's part and the record are not what SR collects. -/
theorem Collecting.of_channel {s : State} {h : List Byte} (hc : Collecting s h) (script : List ChanAnswer)
    (issued : List ChanTxn) : Collecting { s with script := script, issued := issued } h :=
  ⟨hc.receiving, hc.powerOn, holds_congr hc.holds rfl rfl, hc.noTerm, hc.room⟩

theorem Collecting.step_eq {s : State} {h : List Byte} (hc : Collecting s h) : step s = chanRead s :=
  step_read hc.receiving hc.powerOn hc.holds hc.noTerm hc.room

/-- A legal answer that is no interruption ends the call or fills the buffer further (R145, R146, R149). -/
theorem Collecting.read_progress {s : State} {h : List Byte} {a : ChanAnswer} (hc : Collecting s h) (hinv : Inv s)
    (hs : s.script = [a]) (hlegal : answerShape (.read (Config.bufCap - s.rxCnt)) a) (ha : a ≠ .interrupted) :
    ∃ t, step s = .next t ∧ Progress s t := by
  have hfails : ∀ e, ReadFails a e → ∃ t, step s = .next t ∧ Progress s t := by
    intro e he
    have hstep := hc.step_eq.trans (chanRead_fails he hs)
    have hsame := receiveFail_sameAgents .transport (chanErrDetail e)
      (transacted (.read (Config.bufCap - s.rxCnt)) [] s)
    refine ⟨_, hstep, step_inv hinv hstep, hsame.powerOn.trans hc.powerOn, hsame.script, patience_lt_of_rank_lt ?_⟩
    rw [receiveFail_seq]
    exact rank_pos_of_not_atRest hc.not_atRest
  cases a with
  | bytes bs =>
    obtain ⟨h1, hl⟩ := hlegal
    have hstep := hc.step_eq.trans (chanRead_bytes hs h1 hl)
    refine ⟨_, hstep, step_inv hinv hstep, (append_powerOn ..).trans hc.powerOn, append_script .., ?_⟩
    have hroom := hc.room
    rw [← hc.holds.2.2, Config.bufCap] at hroom
    simp only [State.patience, append_seq, append_rxCnt, transacted_seq, transacted_rxCnt]
    omega
  | zero => exact hfails .closed .zero
  | rerr e => exact hfails e (.rerr e)
  | interrupted => exact absurd rfl ha
  | wrote | werr => cases hlegal

/-- An interrupted read leaves the block as it was, but for the record (R144). -/
theorem Collecting.step_interrupted {s : State} {h : List Byte} (hc : Collecting s h)
    (hs : s.script = [.interrupted]) :
    step s = .next { s with script := [], issued := s.issued ++ [.read (Config.bufCap - s.rxCnt)] } :=
  hc.step_eq.trans (chanRead_interrupted hs)

theorem serve_collecting (c : Channel) (n : Nat) {s : State} {h : List Byte} (hc : Collecting s h)
    (hs : s.script = []) :
    c.serve n s = { s with script := (c.onRead n (Config.bufCap - s.rxCnt)).toList } :=
  serve_read c n hs hc.asks

/-! ## Runs -/

/-- A run goes on from the state its first `k` steps reach. -/
theorem Channel.run_add {c : Channel} {n k : Nat} {s t : State} (h : c.run n k s = .next t) (j : Nat) :
    c.run n (k + j) s = c.run (n + k) j t := by
  induction k generalizing n s with
  | zero => cases h; simp
  | succ k ih =>
    cases hstep : step (c.serve n s) with
    | fault e => rw [Channel.run, hstep] at h; cases h
    | refused r => rw [Channel.run, hstep] at h; cases h
    | next u =>
      rw [c.run_succ n k hstep] at h
      rw [Nat.succ_add, c.run_succ n _ hstep, ih h, Nat.succ_add_eq_add_succ]

theorem Channel.run_one {c : Channel} {n : Nat} {s t : State} (h : step (c.serve n s) = .next t) :
    c.run n 1 s = .next t :=
  c.run_succ n 0 h

/-- A state with an empty script and an interrupted read behind it is the state before, but for the record. -/
theorem script_nil_eq {s : State} (hs : s.script = []) (issued : List ChanTxn) :
    { s with script := [], issued := issued } = { s with issued := issued } := by
  rw [← hs]

/-- A read that is answered by something other than an interruption makes progress (R251). -/
theorem Channel.legal.answered_progress {c : Channel} (hc : c.legal) {n : Nat} {s : State} {h : List Byte}
    {a : ChanAnswer} (hcol : Collecting s h) (hinv : Inv s) (hs : s.script = [])
    (hread : c.onRead n (Config.bufCap - s.rxCnt) = some a) (ha : a ≠ .interrupted) :
    ∃ t, step (c.serve n s) = .next t ∧ Progress s t := by
  rw [serve_collecting c n hcol hs, hread]
  obtain ⟨t, hstep, hprog⟩ := (hcol.of_channel [a] s.issued).read_progress (hinv.of_agents _ _ _ _ _ _ _ _) rfl
    (hc.2 _ _ _ hread) ha
  exact ⟨t, hstep, hprog.inv, hprog.powerOn, hprog.script, hprog.lt⟩

/-- A read that is not answered, or interrupted, is made again in the same state (R144, R226). -/
theorem step_unanswered {c : Channel} {n : Nat} {s : State} {h : List Byte} (hcol : Collecting s h)
    (hs : s.script = []) (hread : ∀ a, c.onRead n (Config.bufCap - s.rxCnt) = some a → a = .interrupted) :
    ∃ issued, step (c.serve n s) = .next { s with issued := issued } := by
  rw [serve_collecting c n hcol hs]
  cases hnow : c.onRead n (Config.bufCap - s.rxCnt) with
  | none =>
    have hwait := step_stuck hcol.powerOn ⟨hcol.receiving, hs, by rw [hcol.asks]; rfl⟩
    rw [Option.toList_none, ← hs]
    exact ⟨s.issued, hwait⟩
  | some a =>
    obtain rfl := hread a hnow
    have hstep := (hcol.of_channel [.interrupted] s.issued).step_interrupted rfl
    exact ⟨_, hstep.trans (congrArg _ (script_nil_eq hs _))⟩

/-- A read whose answer comes `d` steps later, if not before, makes progress, by induction on `d` (R251). -/
theorem Channel.legal.read_progress {c : Channel} (hc : c.legal) {a : ChanAnswer} (ha : a ≠ .interrupted) (d : Nat) :
    ∀ {n : Nat} {s : State} {h : List Byte}, Collecting s h → Inv s → s.script = [] →
      c.onRead (n + d) (Config.bufCap - s.rxCnt) = some a → ∃ k t, c.run n k s = .next t ∧ Progress s t := by
  induction d with
  | zero =>
    intro n s h hcol hinv hs hread
    obtain ⟨t, hstep, hprog⟩ := hc.answered_progress hcol hinv hs hread ha
    exact ⟨1, t, Channel.run_one hstep, hprog⟩
  | succ d ih =>
    intro n s h hcol hinv hs hread
    by_cases hnow : ∀ b, c.onRead n (Config.bufCap - s.rxCnt) = some b → b = .interrupted
    · obtain ⟨issued, hstep⟩ := step_unanswered hcol hs hnow
      have hlater : c.onRead (n + 1 + d) (Config.bufCap - s.rxCnt) = some a := by rwa [Nat.succ_add_eq_add_succ]
      obtain ⟨k, t, hrun, hprog⟩ := ih (hcol.of_channel s.script issued) (hinv.of_agents _ _ _ _ _ _ _ _) hs hlater
      exact ⟨k + 1, t, (c.run_succ n k hstep).trans hrun, hprog.inv, hprog.powerOn, hprog.script, hprog.lt⟩
    · push Not at hnow
      obtain ⟨b, hb, hne⟩ := hnow
      obtain ⟨t, hstep, hprog⟩ := hc.answered_progress hcol hinv hs hb hne
      exact ⟨1, t, Channel.run_one hstep, hprog⟩

/-- A busy block makes progress under a legal and fair channel (R251). -/
theorem Channel.legal.busy_progress {c : Channel} (hc : c.legal) (hfair : c.fair) (n : Nat) {s : State} (hinv : Inv s)
    (hp : s.powerOn = false) (hs : s.script = []) (hrest : ¬ atRest s) :
    ∃ k t, c.run n k s = .next t ∧ Progress s t := by
  by_cases hq : s.seq = .tx
  · obtain ⟨t, hstep, hprog⟩ := hc.write_progress n hinv hq hp hs
    exact ⟨1, t, Channel.run_one hstep, hprog⟩
  have hr : s.seq.receiving = true := by cases hseq : s.seq <;> simp_all [atRest, Seq.receiving]
  obtain ⟨bs, -, hb⟩ := held_of_inv hinv
  have hsilent : ∀ t, asks s = none → step s = .next t → ∃ k t, c.run n k s = .next t ∧ Progress s t := by
    intro t hasks hstep
    exact ⟨1, t, Channel.run_one ((congrArg step (serve_none c n hasks)).trans hstep),
      progress_of_delivers hinv hp hs hstep hrest hasks hq⟩
  have hasks := asks_receiving hr hb
  obtain ⟨g, rest, rfl, hg⟩ | hn := held_cases bs
  · obtain ⟨t, hstep⟩ := step_held_frame_answers hr hp hb hg
    exact hsilent t (hasks.trans (if_pos (.inl (by simp)))) hstep
  · obtain hfull | hroom := Nat.eq_or_lt_of_le hb.1
    · have hstep := step_outcome hp hr (nextFrameTurn_full hb hn hfull)
      exact hsilent _ (hasks.trans (if_pos (.inr (hb.2.2.trans hfull)))) hstep
    · obtain ⟨m, a, hle, hread, ha⟩ := hfair n (Config.bufCap - s.rxCnt)
      obtain ⟨d, rfl⟩ := Nat.exists_eq_add_of_le hle
      exact hc.read_progress ha d ⟨hr, hp, hb, hn, hroom⟩ hinv hs hread

/-- Under a legal and fair channel every operation ends, by induction on the patience left (R251). -/
theorem Channel.legal.comes_to_rest {c : Channel} (hc : c.legal) (hfair : c.fair) (n : Nat) {s : State} (hinv : Inv s)
    (hp : s.powerOn = false) (hs : s.script = []) : ∃ k t, c.run n k s = .next t ∧ atRest t := by
  by_cases hrest : atRest s
  · exact ⟨0, s, rfl, hrest⟩
  obtain ⟨k, t, hrun, hprog⟩ := hc.busy_progress hfair n hinv hp hs hrest
  have := hprog.lt
  obtain ⟨j, u, hmore, hu⟩ := hc.comes_to_rest hfair (n + k) hprog.inv hprog.powerOn hprog.script
  exact ⟨k + j, u, (Channel.run_add hrun j).trans hmore, hu⟩
termination_by s.patience

/-- A channel that always interrupts keeps the block at its read, by induction on the steps (R251). -/
theorem Channel.run_interrupted {c : Channel} (hc : ∀ m max, c.onRead m max = some .interrupted) (k : Nat) :
    ∀ {n : Nat} {s : State} {h : List Byte}, Collecting s h → s.script = [] →
      ∃ t, c.run n k s = .next t ∧ t = { s with issued := t.issued } ∧ t.issued.length = s.issued.length + k := by
  induction k with
  | zero => exact fun _ _ => ⟨_, rfl, rfl, rfl⟩
  | succ k ih =>
    intro n s h hcol hs
    have hstep : step (c.serve n s) = .next { s with issued := s.issued ++ [.read (Config.bufCap - s.rxCnt)] } := by
      rw [serve_collecting c n hcol hs, hc]
      have hread := (hcol.of_channel [.interrupted] s.issued).step_interrupted rfl
      exact hread.trans (congrArg _ (script_nil_eq hs _))
    obtain ⟨t, hrun, hframe, hlen⟩ := ih (n := n + 1)
      (hcol.of_channel s.script (s.issued ++ [.read (Config.bufCap - s.rxCnt)])) hs
    refine ⟨t, (c.run_succ n k hstep).trans hrun, hframe, ?_⟩
    simp only [List.length_append, List.length_singleton] at hlen
    omega

/-- Settles O59: fairness gives progress until rest, and `Interrupted` for ever gives none. -/
theorem fairChannelEndsEveryOperation : Obligations.FairChannelEndsEveryOperation :=
  ⟨fun _ _ hc hfair hinv hp hs => hc.comes_to_rest hfair 0 hinv hp hs,
    fun _ _ _ _ hc hq hp hs hh hn hl k => Channel.run_interrupted hc k ⟨hq, hp, hh, hn, hl⟩ hs⟩

end Sys2Proof.Machine
end

section
/-!
What steps and operations do not read (spec 10_state.md R34, 42_handshake.md R182): the transmit register in a receive
state, and the held bytes in BUILD, PARSE, RESET and the reserved operations.
-/
namespace Sys2Proof.Machine

/-! ## The transmit register in a receive state (R182) -/

/-- The state with another transmit register. -/
def withTx (f : List (Option Byte)) (n : Option Nat) (s : State) : State := { s with txFrame := f, txLen := n }

section
variable (f : List (Option Byte)) (n : Option Nat)

theorem receiveFail_withTx (c : ResCode) (d : Byte) (s : State) :
    receiveFail c d (withTx f n s) = withTx f n (receiveFail c d s) := by
  rw [receiveFail_eq, receiveFail_eq]
  rfl

theorem append_withTx (bs : List Byte) : ∀ s, append bs (withTx f n s) = withTx f n (append bs s) := by
  induction bs with
  | nil => exact fun _ => rfl
  | cons b bs ih => exact fun s => ih { bufWrite s.rxCnt b s with rxCnt := s.rxCnt + 1 }

theorem psReply_withTx (t : Nibble) (r : Reply) (s : State) :
    psReply t r (withTx f n s) = withTx f n (psReply t r s) := by
  unfold psReply
  split_ifs
  · cases hq : s.seq <;> simp only [psAck, withTx, hq] <;> rfl
  · rfl
  · rfl
  · rfl

theorem chanRead_withTx (s : State) :
    nextState? (chanRead (withTx f n s)) = (nextState? (chanRead s)).map (withTx f n) := by
  have hscript : (withTx f n s).script = s.script := rfl
  have hcnt : (withTx f n s).rxCnt = s.rxCnt := rfl
  simp only [chanRead, hscript, hcnt]
  split
  case h_3 bs rest _ =>
    split_ifs
    · exact congrArg some (append_withTx f n bs (transacted (.read (Config.bufCap - s.rxCnt)) rest s))
    · rfl
  case h_4 rest _ =>
    exact congrArg some (receiveFail_withTx f n _ _ (transacted (.read (Config.bufCap - s.rxCnt)) rest s))
  case h_5 e rest _ =>
    exact congrArg some (receiveFail_withTx f n _ _ (transacted (.read (Config.bufCap - s.rxCnt)) rest s))
  all_goals rfl

theorem fetchFrame_exchange (g : List Byte) {s : State} (hq : s.seq = .rx1 ∨ s.seq = .rx2) :
    fetchFrame g s = if g.length < Config.minReply then
      .outcome (.next (endError .protoFrameTooShort (BitVec.ofNat 8 g.length) s))
      else fetchDecoded (decode .reply g) s := by
  rcases hq with hq | hq <;> simp only [fetchFrame, hq]

theorem fetchFrame_withTx (g : List Byte) {s : State} (hq : s.seq.receiving = true) :
    nextState? (fetchFrame g (withTx f n s)).result = (nextState? (fetchFrame g s).result).map (withTx f n) := by
  by_cases hx : s.seq = .rxf
  · have hx' : (withTx f n s).seq = .rxf := hx
    simp only [fetchFrame, hx, hx']
    rfl
  · have hr := exchange_of_receiving hq hx
    have hr' : (withTx f n s).seq = .rx1 ∨ (withTx f n s).seq = .rx2 := hr
    rw [fetchFrame_exchange g hr, fetchFrame_exchange g hr']
    split_ifs
    · rfl
    · cases hd : decode .reply g with
      | reject e => rfl
      | ok i =>
        obtain ⟨t, r, rfl, -, -⟩ := decodeReply_ok hd
        simp only [fetchDecoded, Fetched.result, exec_replyRow_exchange t r hr, exec_replyRow_exchange t r hr']
        exact congrArg some (psReply_withTx f n t r s)

theorem fetchReceive_withTx {s : State} (hq : s.seq.receiving = true) :
    nextState? (fetchReceive (withTx f n s)).result = (nextState? (fetchReceive s).result).map (withTx f n) := by
  have hheld : held (withTx f n s) = held s := rfl
  have hcnt : (withTx f n s).rxCnt = s.rxCnt := rfl
  simp only [fetchReceive, nextFrameTurn, hheld, hcnt]
  cases held s with
  | none => rfl
  | some bs =>
    dsimp only
    cases firstTerm bs with
    | some p => exact fetchFrame_withTx f n (bs.take (p + 1)) (s := shift (p + 1) s) hq
    | none =>
      by_cases hc : s.rxCnt = Config.bufCap
      · simp only [hc, if_true]
        exact congrArg some (receiveFail_withTx f n _ _ s)
      · simp only [hc, if_false]
        exact chanRead_withTx f n s

end

/-- Settles O46: a receive step commutes with writing the transmit register. -/
theorem replyHandlingIgnoresTheRequest : Obligations.ReplyHandlingIgnoresTheRequest := by
  intro s f n hq hp
  have hq' : (withTx f n s).seq.receiving = true := hq
  have hp' : (withTx f n s).powerOn = false := hp
  have hturn := fetchReceive_withTx f n hq
  rw [← fetch_receiving hp hq, ← fetch_receiving hp' hq', ← step_eq_result, ← step_eq_result] at hturn
  exact hturn

/-! ## The held bytes (R34) -/

/-- The state with other cells in the receive buffer. -/
def withBuf (buf : List (Option Byte)) (s : State) : State := { s with rxBuf := buf }

/-- BUILD's and PARSE's updates show nothing of the buffer's cells (R122). -/
theorem CodecUpdate.statusView_withBuf {op : HostOp} {u : State → State} (hu : CodecUpdate op u)
    (buf : List (Option Byte)) (s : State) : (u (withBuf buf s)).statusView = (u s).statusView := by
  cases hu <;> rfl

theorem parseResult_updates_or_refuses (f : List Byte) :
    (∃ u, CodecUpdate .parse u ∧ ∀ s, parseResult f s = .next (u s)) ∨ ∃ r, ∀ s, parseResult f s = .refused r := by
  cases h : parseResult f State.reset with
  | next t => exact .inl (parseResult_update h)
  | fault e => exact absurd h (parseResult_ne_fault f _ e)
  | refused r =>
    refine .inr ⟨r, fun s => ?_⟩
    unfold parseResult at h ⊢
    cases hc : classify f <;> simp_all

/-- PARSE in IDLE is one update of the state, or one refusal, that its operands fix (R122). -/
theorem exec_parse_updates_or_refuses (n : BitVec 5) (f : List Byte) :
    (∃ u, CodecUpdate .parse u ∧ ∀ s : State, s.seq = .idle → exec (.parse n f) s = .next (u s)) ∨
      ∃ r, ∀ s : State, s.seq = .idle → exec (.parse n f) s = .refused r := by
  by_cases hn : n.toNat ≤ 16
  · refine (parseResult_updates_or_refuses (f.take n.toNat)).imp ?_ ?_
    · exact fun ⟨u, hu, h⟩ => ⟨u, hu, fun s hq => (exec_parse_idle f hq hn).trans (h s)⟩
    · exact fun ⟨r, h⟩ => ⟨r, fun s hq => (exec_parse_idle f hq hn).trans (h s)⟩
  · exact .inr ⟨_, fun s hq => (issue_idle _ hq).trans (if_pos (Nat.not_le.1 hn))⟩

/-- An operation shows the same status view whatever the buffer's cells are. -/
def HidesBuffer (i : Instr) (s : State) : Prop :=
  ∀ buf, (nextState? (exec i (withBuf buf s))).map State.statusView = (nextState? (exec i s)).map State.statusView

theorem hidesBuffer_build (q : HostReq) {s : State} (hq : s.seq = .idle) : HidesBuffer (.build q) s := by
  intro buf
  have hq' : (withBuf buf s).seq = .idle := hq
  by_cases hc : q.cat ∈ s.categoryCodes
  · obtain ⟨u, hu, hexec⟩ := exec_build_update q
    rw [hexec s hq hc, hexec (withBuf buf s) hq' hc]
    exact congrArg some (hu.statusView_withBuf buf s)
  · have hrefused : ∀ s' : State, s'.seq = .idle → q.cat ∉ s'.categoryCodes →
        exec (.build q) s' = .refused .categoryNotAdmitted :=
      fun _ hq hc => (issue_idle _ hq).trans (buildPhase_refused _ hc)
    rw [hrefused s hq hc, hrefused (withBuf buf s) hq' hc]

theorem hidesBuffer_parse (n : BitVec 5) (f : List Byte) {s : State} (hq : s.seq = .idle) :
    HidesBuffer (.parse n f) s := by
  intro buf
  have hq' : (withBuf buf s).seq = .idle := hq
  obtain ⟨u, hu, h⟩ | ⟨r, h⟩ := exec_parse_updates_or_refuses n f
  · rw [h s hq, h _ hq']
    exact congrArg some (hu.statusView_withBuf buf s)
  · rw [h s hq, h _ hq']

theorem hidesBuffer_reset {s : State} (hq : s.seq = .idle) : HidesBuffer .reset s := by
  intro buf
  rw [exec_reset_atRest (.inl hq), exec_reset_atRest (s := withBuf buf s) (.inl hq)]
  rfl

/-- A reserved operation writes the code and its selector only (R88). -/
theorem hidesBuffer_reserved {i : Instr} {op : Byte} {s : State} (hq : s.seq = .idle)
    (hi : ∀ s, exec i s = issue s (.next (illegalOp op s))) : HidesBuffer i s := by
  intro buf
  rw [hi, hi, issue_idle _ hq, issue_idle (s := withBuf buf s) _ hq]
  rfl

/-- Settles O56: the status view has no field for the cells, and each of the operations hides them. -/
theorem heldBytesAreHidden : Obligations.HeldBytesAreHidden := by
  intro i s buf hq hi
  refine ⟨rfl, ?_⟩
  obtain ⟨q, rfl⟩ | ⟨n, f, rfl⟩ | rfl | rfl | rfl | rfl := hi
  · exact hidesBuffer_build q hq buf
  · exact hidesBuffer_parse n f hq buf
  · exact hidesBuffer_reset hq buf
  · exact hidesBuffer_reserved hq (fun _ => rfl) buf
  · exact hidesBuffer_reserved hq (fun _ => rfl) buf
  · exact hidesBuffer_reserved hq (fun _ => rfl) buf

end Sys2Proof.Machine
end

section
/-!
The byte stream (spec 41_stream_reassembly.md sections 2 and 3, 20_memory.md R54): a receive step neither loses nor
reorders bytes, and calls of NEXT_FRAME return the frames of the stream however it is split into reads.
-/
namespace Sys2Proof.Machine

/-! ## One receive step (R54, R59) -/

theorem FrameEffect.holds {f : List Byte} {s t : State} {bs : List Byte} (h : FrameEffect f s t)
    (hb : Machine.holds s bs) : Machine.holds t bs := by
  cases h <;> exact holds_congr hb rfl rfl

theorem receiveFail_holds {s : State} {bs : List Byte} (c : ResCode) (d : Byte) (hb : holds s bs) :
    holds (receiveFail c d s) bs := by
  rw [receiveFail_eq]
  exact holds_congr hb rfl rfl

theorem scriptBytes_cons (a : ChanAnswer) (rest : List ChanAnswer) :
    scriptBytes (a :: rest) = answerBytes a ++ scriptBytes rest :=
  List.flatMap_cons

/-- A read moves bytes from the channel to the end of the held ones (R145), or takes an answer without bytes. -/
theorem chanRead_keeps_stream {s t : State} {h : List Byte} (hb : holds s h) (hread : chanRead s = .next t) :
    ∃ h', holds t h' ∧ h' ++ scriptBytes t.script = h ++ scriptBytes s.script := by
  obtain ⟨-, rfl⟩ | ⟨rest, hs, rfl⟩ | ⟨bs, rest, hs, -, hl, rfl⟩ | ⟨a, rest, d, hs, ha, rfl⟩ := chanRead_next hread
  · exact ⟨h, hb, rfl⟩
  · refine ⟨h, transacted_holds _ _ hb, ?_⟩
    rw [hs, scriptBytes_cons]
    rfl
  · have hroom : h.length + bs.length ≤ Config.bufCap := by
      have := hb.1
      rw [hb.2.2] at hl
      omega
    refine ⟨h ++ bs, append_holds bs (transacted_holds _ _ hb) hroom, ?_⟩
    rw [append_script, transacted_script, hs, scriptBytes_cons, List.append_assoc]
    rfl
  · refine ⟨h, receiveFail_holds _ _ (transacted_holds _ _ hb), ?_⟩
    rw [(receiveFail_sameAgents ..).script, transacted_script, hs, scriptBytes_cons, ha, List.nil_append]

/-- Settles O34: a delivered frame is the front of the held bytes; every other receive step keeps the stream. -/
theorem receiveStepsKeepTheStream : Obligations.ReceiveStepsKeepTheStream := by
  intro s t h hq hp hb hstep
  have hno : ¬(s.seq = .idle ∨ s.seq = .fault) := by rintro (e | e) <;> rw [e] at hq <;> cases hq
  cases step_effect hp hstep with
  | wait hr => exact absurd hr hno
  | host w rest i t hr => exact absurd hr hno
  | transmit f t htx => exact absurd htx (ne_tx_of_receiving hq)
  | frame bs p t _ hh hf heff =>
    cases (held_of_holds hb).symm.trans hh
    obtain ⟨g, rest, rfl, hg, rfl⟩ := firstTerm_some hf
    have hcap := hb.1
    rw [List.length_append, List.length_cons] at hcap
    have hrest := heff.holds (shift_holds (g.length + 1) hb)
    rw [List.append_cons, List.drop_left' (by simp)] at hrest
    refine .inl ⟨g ++ [Config.term], rest, ⟨?_, g, rfl, hg⟩, List.append_cons .., hrest, heff.sameAgents.script⟩
    rw [List.length_append, List.length_singleton]
    exact le_trans (by omega) hcap
  | full bs =>
    refine .inr ⟨h, receiveFail_holds _ _ hb, ?_⟩
    rw [(receiveFail_sameAgents ..).script]
  | read bs t _ _ _ _ hread => exact .inr (chanRead_keeps_stream hb hread)

/-! ## The issue of NEXT_FRAME, and the wait after it -/

/-- The host's NEXT_FRAME starts SR (R140). -/
theorem step_issue_nextFrame {s : State} {rest : List HostWord} (hq : s.seq = .idle) (hp : s.powerOn = false)
    (hh : s.host = .op [0x03] :: rest) : step s = .next { s with host := rest, seq := .rxf } :=
  (step_host hp (.inl hq) hh rfl).trans (issue_idle _ hq)

/-- With no operation left every further step waits (R240). -/
theorem runSteps_wait {s : State} (hq : s.seq = .idle) (hp : s.powerOn = false) (hh : s.host = []) (k : Nat) :
    runSteps k s = .next s := by
  induction k with
  | zero => rfl
  | succ k ih => exact (runSteps_succ k (step_wait hp (.inl hq) hh)).trans ih

/-! ## A full buffer without a terminator (R148, R248) -/

theorem runSteps_nextFrame_full {s : State} {h : List Byte} {rest : List HostWord} (hp : s.powerOn = false)
    (hb : holds s h) (hl : h.length = 16) (hn : Config.term ∉ h) (hq : s.seq = .idle)
    (hh : s.host = .op [0x03] :: rest) (k : Nat) :
    runSteps (k + 2) s = runSteps k { s with resCode := .resourceBufferFull, resDetail := 0, host := rest } := by
  have hcollect : holds { s with host := rest, seq := .rxf } h := holds_congr hb rfl rfl
  have hfull := step_outcome (s := { s with host := rest, seq := .rxf }) hp rfl (nextFrameTurn_full hcollect hn hl)
  rw [receiveFail_rxf _ _ rfl] at hfull
  rw [runSteps_succ (k + 1) (step_issue_nextFrame hq hp hh), runSteps_succ k hfull]
  rw [← hq]
  rfl

/-- Settles O31, by induction on the number of calls: each takes its two steps and leaves the buffer as it was. -/
theorem bufferFullIsSticky : Obligations.BufferFullIsSticky := by
  intro s h n
  induction n generalizing s with
  | zero =>
    intro hp hb hl hn hq hh
    exact runSteps_nextFrame_full hp hb hl hn hq hh 0
  | succ n ih =>
    intro hp hb hl hn hq hh
    exact (runSteps_nextFrame_full hp hb hl hn hq hh (2 * (n + 1))).trans
      (ih { s with resCode := .resourceBufferFull, resDetail := 0, host := List.replicate (n + 1) (.op [0x03]) }
        hp (holds_congr hb rfl rfl) hl hn hq rfl)

/-! ## The reads of one call (R153) -/

theorem byteReads_cons_length_le (a : ChanAnswer) (rest : List ChanAnswer) :
    (byteReads (a :: rest)).length ≤ (byteReads rest).length + 1 := by
  cases a <;> simp [byteReads]

/-- A step of a call makes at most one read that answers bytes, each of which fills the buffer, or ends the call. -/
theorem step_rxf_reads {s t : State} (hinv : Inv s) (hq : s.seq = .rxf) (hp : s.powerOn = false)
    (hstep : step s = .next t) :
    (t.seq = .idle ∧ (byteReads s.script).length ≤ (byteReads t.script).length + (16 - s.rxCnt)) ∨
      (t.seq = .rxf ∧ (byteReads s.script).length + (16 - t.rxCnt) ≤ (byteReads t.script).length + (16 - s.rxCnt)) := by
  cases step_effect hp hstep with
  | wait hr => simp [hq] at hr
  | host w rest i t hr => simp [hq] at hr
  | transmit f t htx => cases hq.symm.trans htx
  | frame bs p t _ _ _ heff =>
    have hscript : t.script = s.script := heff.sameAgents.script
    obtain rfl := heff.eq_endOk (s := shift (p + 1) s) hq
    exact .inl ⟨rfl, by rw [hscript]; omega⟩
  | full bs =>
    refine .inl ⟨receiveFail_seq .., ?_⟩
    rw [(receiveFail_sameAgents ..).script]
    omega
  | read bs t _ hh _ hc hread =>
    have hroom : s.rxCnt < 16 := by
      obtain ⟨hcap, -, hcnt⟩ := hinv.holds_of_held hh
      rw [hcnt] at hc ⊢
      exact lt_of_le_of_ne hcap hc
    obtain ⟨-, rfl⟩ | ⟨rest, hs, rfl⟩ | ⟨bs, rest, hs, h1, hl, rfl⟩ | ⟨a, rest, d, hs, -, rfl⟩ := chanRead_next hread
    · exact .inr ⟨hq, le_rfl⟩
    · refine .inr ⟨hq, ?_⟩
      rw [hs]
      exact le_rfl
    · refine .inr ⟨(append_seq ..).trans hq, ?_⟩
      have := byteReads_cons_length_le (.bytes bs) rest
      rw [hs, append_rxCnt, append_script, transacted_script, transacted_rxCnt]
      rw [Config.bufCap] at hl
      omega
    · refine .inl ⟨receiveFail_seq .., ?_⟩
      have := byteReads_cons_length_le a rest
      rw [hs, (receiveFail_sameAgents ..).script, transacted_script]
      omega

/-- Settles O33, by induction on the steps: what a read takes from the script it takes from the free space. -/
theorem readsPerCallAreBounded : Obligations.ReadsPerCallAreBounded := by
  intro k
  induction k with
  | zero =>
    intro s t _ _ _ _ hrun
    cases hrun
    omega
  | succ k ih =>
    intro s t hinv hq hh hp hrun
    cases hstep : step s with
    | fault e => rw [runSteps, hstep] at hrun; cases hrun
    | refused r => rw [runSteps, hstep] at hrun; cases hrun
    | next u =>
      rw [runSteps_succ k hstep] at hrun
      have hmove := step_moves hp hstep
      have hpu := hmove.powerOn.trans hp
      have hhu : u.host = [] := (hostHasNoMoveWhileBusy s (by simp [hq])).1 u hp hstep |>.trans hh
      obtain ⟨hu, hbound⟩ | ⟨hu, hbound⟩ := step_rxf_reads hinv hq hp hstep
      · cases (runSteps_wait hu hpu hhu k).symm.trans hrun
        exact hbound
      · have hrest := ih u t (step_inv hinv hstep) hu hhu hpu hrun
        omega

/-! ## Fragmentation (R150) -/

theorem afterLastTerm_of_not_mem {bs : List Byte} (h : Config.term ∉ bs) : afterLastTerm bs = bs := by
  cases bs with
  | nil => rfl
  | cons b bs =>
    obtain ⟨hb, hbs⟩ := not_or.1 (mt List.mem_cons.2 h)
    rw [afterLastTerm, if_neg hbs, if_neg (Ne.symm hb)]

/-- Taking a whole frame from the front leaves what follows the last terminator. -/
theorem afterLastTerm_append_term (g rest : List Byte) :
    afterLastTerm (g ++ Config.term :: rest) = afterLastTerm rest := by
  induction g with
  | nil =>
    by_cases hr : Config.term ∈ rest
    · exact if_pos hr
    · rw [List.nil_append, afterLastTerm, if_neg hr, if_pos rfl, afterLastTerm_of_not_mem hr]
  | cons b g ih =>
    rw [List.cons_append, afterLastTerm, if_pos (by simp), ih]

/-- The first frame of a stream is determined (R70). -/
theorem append_term_inj {g g' r r' : List Byte} (hg : Config.term ∉ g) (hg' : Config.term ∉ g')
    (h : g ++ Config.term :: r = g' ++ Config.term :: r') : g = g' ∧ r = r' := by
  have hlen : some g.length = some g'.length := by
    rw [← firstTerm_append r hg, ← firstTerm_append r' hg', h]
  obtain ⟨hgg, hrr⟩ := List.append_inj h (Option.some.inj hlen)
  exact ⟨hgg, (List.cons.inj hrr).2⟩

/-- Held bytes without a terminator are a part of the frame that the stream begins with. -/
theorem length_le_of_not_mem {b g more rest : List Byte} (hb : Config.term ∉ b)
    (h : b ++ rest = g ++ Config.term :: more) : b.length ≤ g.length := by
  obtain ⟨c, rfl, -⟩ | ⟨c, rfl, hc⟩ := List.append_eq_append_iff.1 h
  · simp
  · cases c with
    | nil => simp
    | cons x c =>
      obtain ⟨rfl, -⟩ := List.cons.inj hc
      exact absurd (by simp) hb

/-- The held bytes, and after them legal answers of the channel, deliver this stream (R150). -/
def delivers (s : State) (stream : List Byte) : Prop :=
  ∃ b, holds s b ∧ b ++ scriptBytes s.script = stream ∧ legalFrom (afterLastTerm b) s.script

/-- A call of NEXT_FRAME has returned `f`, and `more` is left of the stream. -/
structure Returned (f more : List Byte) (t : State) : Prop where
  seq : t.seq = .idle
  powerOn : t.powerOn = false
  resCode : t.resCode = .ok
  bytes : t.resultBytes = some f
  delivers : delivers t more

/-- With a whole frame held the next step returns it (R142). -/
theorem step_returns_held_frame {s : State} {g rest more : List Byte} (hq : s.seq = .rxf) (hp : s.powerOn = false)
    (hg : Config.term ∉ g) (hb : holds s (g ++ Config.term :: rest)) (hstream : rest ++ scriptBytes s.script = more)
    (hlegal : legalFrom (afterLastTerm (g ++ Config.term :: rest)) s.script) :
    ∃ t, step s = .next t ∧ t.host = s.host ∧ Returned (g ++ [Config.term]) more t := by
  have hcap := hb.1
  rw [List.length_append, List.length_cons] at hcap
  rw [afterLastTerm_append_term] at hlegal
  refine ⟨_, step_frame_rxf hp hq (nextFrameTurn_frame hb hg) hq, rfl, rfl, hp, rfl, setOk_resultBytes _ _, rest, ?_,
    hstream, hlegal⟩
  exact holds_congr (holds_cellsOf (s := s) (by omega)) rfl rfl

/-- From RXF the frame that the stream begins with is returned, by induction on the channel's answers: each is one step,
and then the frame is delivered. -/
theorem runSteps_returns_frame {g more : List Byte} (hg : Config.term ∉ g) (hlen : g.length ≤ 15)
    (script : List ChanAnswer) :
    ∀ {s : State}, s.script = script → s.seq = .rxf → s.powerOn = false → s.host = [] →
      delivers s (g ++ Config.term :: more) →
      ∃ t, runSteps (script.length + 1) s = .next t ∧ Returned (g ++ [Config.term]) more t := by
  induction script with
  | nil =>
    rintro s hs hq hp hh ⟨b, hb, hstream, hlegal⟩
    have hb' : b = g ++ Config.term :: more := by simpa [hs, scriptBytes] using hstream
    subst hb'
    obtain ⟨t, hstep, -, hret⟩ := step_returns_held_frame (more := more) hq hp hg hb (by simp [hs, scriptBytes]) hlegal
    exact ⟨t, runSteps_succ 0 hstep, hret⟩
  | cons a script ih =>
    rintro s hs hq hp hh ⟨b, hb, hstream, hlegal⟩
    obtain ⟨g', rest, rfl, hg'⟩ | hn := held_cases b
    · rw [List.append_assoc, List.cons_append] at hstream
      obtain ⟨rfl, hmore⟩ := append_term_inj hg' hg hstream
      obtain ⟨t, hstep, hhost, hret⟩ := step_returns_held_frame hq hp hg hb hmore hlegal
      exact ⟨t, (runSteps_succ _ hstep).trans (runSteps_wait hret.seq hret.powerOn (hhost.trans hh) _), hret⟩
    · have hroom : b.length < Config.bufCap :=
        Nat.lt_of_le_of_lt ((length_le_of_not_mem hn hstream).trans hlen) (by decide)
      have hread : step s = chanRead s := step_read (by rw [hq]; rfl) hp hb hn hroom
      rw [afterLastTerm_of_not_mem hn, hs] at hlegal
      rw [hs, scriptBytes_cons] at hstream
      cases a with
      | interrupted =>
        have hstep := hread.trans (chanRead_interrupted hs)
        rw [List.length_cons, runSteps_succ _ hstep]
        exact ih rfl hq hp hh
          ⟨b, transacted_holds _ _ hb, hstream, by rwa [afterLastTerm_of_not_mem hn]⟩
      | bytes bs =>
        obtain ⟨h1, hl, hlegal⟩ := hlegal
        have hfits : b.length + bs.length ≤ Config.bufCap := by omega
        have hstep := hread.trans (chanRead_bytes hs h1 (by rwa [hb.2.2]))
        rw [List.length_cons, runSteps_succ _ hstep]
        refine ih (append_script ..) ((append_seq ..).trans hq) ((append_powerOn ..).trans hp)
          ((append_host ..).trans hh) ⟨b ++ bs, append_holds bs (transacted_holds _ _ hb) hfits, ?_, ?_⟩
        · rw [append_script, List.append_assoc]
          exact hstream
        · rwa [append_script]
      | wrote | werr | zero | rerr => cases hlegal

/-- One call returns the frame that the stream begins with. -/
theorem callNextFrame_returns {s : State} {f more : List Byte} (hq : s.seq = .idle) (hp : s.powerOn = false)
    (hf : isFrame f) (hstream : delivers s (f ++ more)) :
    ∃ t, callNextFrame s = some (f, t) ∧ Returned f more t := by
  obtain ⟨g, rfl, hg, hsplit⟩ := isFrame_split hf more
  have hlen : g.length ≤ 15 := Nat.le_of_lt_succ (by simpa using hf.length_le)
  obtain ⟨b, hb, hbytes, hlegal⟩ := hsplit ▸ hstream
  have hissue := step_issue_nextFrame (s := { s with host := [.op [3]] }) hq hp rfl
  obtain ⟨t, hrun, hret⟩ := runSteps_returns_frame hg hlen s.script (s := { s with host := [], seq := .rxf })
    rfl rfl hp rfl ⟨b, holds_congr hb rfl rfl, hbytes, hlegal⟩
  refine ⟨t, ?_, hret⟩
  rw [callNextFrame, runSteps_succ _ hissue, hrun]
  dsimp only
  rw [if_pos ⟨hret.seq, hret.resCode⟩, hret.bytes]
  rfl

/-- `N` calls return the `N` frames of the stream, by induction on the frames. -/
theorem callNextFrames_returns (fs : List (List Byte)) :
    ∀ {s : State}, s.seq = .idle → s.powerOn = false → (∀ f ∈ fs, isFrame f) → delivers s fs.flatten →
      ∃ t, callNextFrames fs.length s = some (fs, t) ∧ delivers t [] := by
  induction fs with
  | nil => exact fun _ _ _ hstream => ⟨_, rfl, hstream⟩
  | cons f fs ih =>
    intro s hq hp hfs hstream
    obtain ⟨t, hcall, hret⟩ := callNextFrame_returns hq hp (hfs f List.mem_cons_self) hstream
    obtain ⟨u, hcalls, hu⟩ := ih hret.seq hret.powerOn (fun g hg => hfs g (List.mem_cons_of_mem f hg)) hret.delivers
    refine ⟨u, ?_, hu⟩
    rw [List.length_cons, callNextFrames, hcall]
    dsimp only
    rw [hcalls]
    rfl

/-- Settles O32: the calls return the frames, and nothing of the stream is left to be held. -/
theorem fragmentationInvariance : Obligations.FragmentationInvariance := by
  intro s fs hq hp hb hfs hlegal hbytes
  obtain ⟨t, hcalls, b, ht, hnil, -⟩ := callNextFrames_returns fs hq hp hfs ⟨[], hb, hbytes, hlegal⟩
  refine ⟨t, hcalls, ?_⟩
  rw [ht.2.2, (List.append_eq_nil_iff.1 hnil).1]
  rfl

end Sys2Proof.Machine
end

section
/-!
Whole exchanges (spec 42_handshake.md sections 1 and 2, 60_exceptions.md section 4): TRANSACT's issue and write, then its
reads and replies, each step an equation between states.
-/
namespace Sys2Proof.Machine

/-! ## The states of an exchange -/

/-- TRANSACT of the request frame `f`, issued in `s`, is in progress: the sequencer is in `q`, the bytes `h` are held,
and of the agents' parts `hs`, `script` and `issued` are left or made. -/
def awaiting (s : State) (f : List Byte) (hs : List HostWord) (q : Seq) (h : List Byte) (script : List ChanAnswer)
    (issued : List ChanTxn) : State :=
  { latch f s with seq := q, rxBuf := cellsOf h, rxCnt := h.length, host := hs, script := script, issued := issued }

section
variable {s : State} {f : List Byte} {hs : List HostWord} {q : Seq} {h : List Byte} {script : List ChanAnswer}
  {issued : List ChanTxn}

theorem awaiting_collecting (hp : s.powerOn = false) (hq : q = .rx1 ∨ q = .rx2) :
    Collecting (awaiting s f hs q [] script issued) [] where
  receiving := by rcases hq with rfl | rfl <;> rfl
  powerOn := hp
  holds := ⟨Nat.zero_le _, rfl, rfl⟩
  noTerm := nofun
  room := by decide

/-- A read with nothing held brings the answer's bytes into the buffer (R143, R145). -/
theorem step_awaiting_bytes {bs : List Byte} (hp : s.powerOn = false) (hq : q = .rx1 ∨ q = .rx2) (h1 : 1 ≤ bs.length)
    (hl : bs.length ≤ 16) :
    step (awaiting s f hs q [] (.bytes bs :: script) issued) =
      .next (awaiting s f hs q bs script (issued ++ [.read 16])) := by
  have hc := awaiting_collecting (f := f) (hs := hs) (script := .bytes bs :: script) (issued := issued) hp hq
  have hroom : bs.length ≤ Config.bufCap - (awaiting s f hs q [] (.bytes bs :: script) issued).rxCnt := hl
  rw [hc.step_eq, chanRead_bytes rfl h1 hroom, append_eq bs _ [] (transacted_holds _ _ hc.holds)
    ((Nat.zero_add _).trans_le hl)]
  rfl

/-- A read timeout ends the exchange (R146). -/
theorem step_awaiting_timeout (hp : s.powerOn = false) (hq : q = .rx1 ∨ q = .rx2) :
    step (awaiting s f hs q [] (.rerr .timeout :: script) issued) =
      .next (endError .transport 1 (awaiting s f hs q [] script (issued ++ [.read 16]))) := by
  have hc := awaiting_collecting (f := f) (hs := hs) (script := .rerr .timeout :: script) (issued := issued) hp hq
  rw [hc.step_eq, chanRead_fails (.rerr .timeout) rfl]
  exact congrArg _ (receiveFail_exchange _ _ hq)

/-- A held reply frame is taken out of the buffer and handled by its type (R173 to R176). -/
theorem step_awaiting_reply {t : Nibble} {r : Reply} {more : List Byte} (hp : s.powerOn = false)
    (hq : q = .rx1 ∨ q = .rx2) (hw : r.wf t = true) (hl : (replyFrame t r ++ more).length ≤ 16) :
    step (awaiting s f hs q (replyFrame t r ++ more) script issued) =
      .next (psReply t r (awaiting s f hs q more script issued)) := by
  have hheld : holds (awaiting s f hs q (replyFrame t r ++ more) script issued) (replyFrame t r ++ more) :=
    ⟨hl, rfl, rfl⟩
  obtain ⟨hturn, -⟩ := nextFrameTurn_isFrame (replyFrame_isFrame hw) hheld
  have h3 : 3 ≤ (replyFrame t r).length := by
    rw [replyFrame_length]
    omega
  have hexec := exec_replyRow_exchange t r (s := awaiting s f hs q more script issued) hq
  exact (step_frame_reply (s := awaiting s f hs q (replyFrame t r ++ more) script issued) hp hq hturn rfl h3
    (decodeReply_replyFrame hw)).trans hexec

/-- The reply frame is all that is held. -/
theorem step_awaiting_only_reply {t : Nibble} {r : Reply} (hp : s.powerOn = false) (hq : q = .rx1 ∨ q = .rx2)
    (hw : r.wf t = true) :
    step (awaiting s f hs q (replyFrame t r) script issued) =
      .next (psReply t r (awaiting s f hs q [] script issued)) := by
  have hstep := step_awaiting_reply (more := []) (s := s) (f := f) (hs := hs) (script := script) (issued := issued)
    hp hq hw (by simpa using (replyFrame_isFrame hw).length_le)
  rwa [List.append_nil] at hstep

/-- A read that answers one reply frame, and the reply: two steps. -/
theorem runSteps_awaiting_reply {t : Nibble} {r : Reply} (hp : s.powerOn = false) (hq : q = .rx1 ∨ q = .rx2)
    (hw : r.wf t = true) (k : Nat) :
    runSteps (k + 2) (awaiting s f hs q [] (.bytes (replyFrame t r) :: script) issued) =
      runSteps k (psReply t r (awaiting s f hs q [] script (issued ++ [.read 16]))) := by
  rw [runSteps_succ _ (step_awaiting_bytes hp hq (by simp) (replyFrame_isFrame hw).length_le),
    runSteps_succ _ (step_awaiting_only_reply hp hq hw)]

/-- The first Ack moves on to RX2 (R174). -/
theorem psReply_ack (r : Reply) :
    psReply 4 r (awaiting s f hs .rx1 h script issued) = awaiting s f hs .rx2 h script issued :=
  psAck_rx1 (s := awaiting s f hs .rx1 h script issued) rfl

end

/-! ## The issue and the write (R171, R172) -/

/-- The host issues TRANSACT in IDLE with operands that the build phase accepts, with `h` held. -/
structure Opens (s : State) (q : HostReq) (h : List Byte) (hs : List HostWord) : Prop where
  seq : s.seq = .idle
  powerOn : s.powerOn = false
  holds : holds s h
  wf : q.wf = true
  cat : q.cat ∈ s.categoryCodes
  plen : q.plen.toNat ≤ 12
  addr : q.addr.toNat ≤ 7
  host : s.host = .op (encode (.transact q)) :: hs

/-- The request is latched and written whole in two steps, and the block is in RX1. -/
theorem Opens.runSteps {s : State} {q : HostReq} {h : List Byte} {hs : List HostWord} {rest : List ChanAnswer}
    (hx : Opens s q h hs) (hscript : s.script = .wrote (4 + q.plen.toNat) :: rest) (k : Nat) :
    runSteps (k + 2) s =
      Machine.runSteps k (awaiting s (requestFrame q) hs .rx1 h rest (s.issued ++ [.write (requestFrame q)])) := by
  have hissue := (step_host hx.powerOn (.inl hx.seq) hx.host (decodeOfEncode (.transact q) hx.wf)).trans
    (exec_transact_ok (s := { s with host := hs }) hx.seq hx.cat hx.plen hx.addr)
  have hlen : s.script = .wrote (requestFrame q).length :: rest := by
    rw [hscript, requestFrame_length (beq_iff_eq.1 hx.wf) hx.plen]
  have hwrite := (step_tx_request (s := { latch (requestFrame q) { s with host := hs } with seq := .tx })
    (k := q.kind) hx.powerOn rfl (requestFrame_wf hx.plen) (latch_txBytes _ _)).trans (chanWrite_whole hlen)
  rw [runSteps_succ _ hissue, runSteps_succ _ hwrite, awaiting, ← hx.holds.2.1, ← hx.holds.2.2]
  rfl

/-! ## The statements -/

/-- Settles O47: issue, write, read and the Completion that ends the exchange. -/
theorem exchangeWithCompletionReturnsThePayload : Obligations.ExchangeWithCompletionReturnsThePayload := by
  intro s q r hs rest hseq hp hb hwf hc hplen haddr hr hh hscript
  have hx : Opens s q [] hs := ⟨hseq, hp, hb, hwf, hc, hplen, haddr, hh⟩
  refine ⟨_, (hx.runSteps hscript 2).trans (runSteps_awaiting_reply hp (.inl rfl) hr 0), rfl, rfl,
    setOk_resultBytes _ _, rfl, rfl, ⟨Nat.zero_le _, rfl, rfl⟩, rfl, rfl, rfl, ?_⟩
  exact List.append_assoc ..

/-- Settles O48: the Ack moves on to RX2, with the Completion in the next read or already held. -/
theorem exchangeWithAckThenCompletion : Obligations.ExchangeWithAckThenCompletion := by
  intro s q r1 r2 hs rest hseq hp hb hwf hc hplen haddr hr1 hr2 hh
  have hx : Opens s q [] hs := ⟨hseq, hp, hb, hwf, hc, hplen, haddr, hh⟩
  refine ⟨fun hscript => ?_, fun hscript hfit => ?_⟩
  · have hack := (hx.runSteps hscript 4).trans (runSteps_awaiting_reply hp (.inl rfl) hr1 2)
    rw [psReply_ack] at hack
    refine ⟨_, hack.trans (runSteps_awaiting_reply hp (.inr rfl) hr2 0), rfl, setOk_resultBytes _ _, rfl,
      ⟨Nat.zero_le _, rfl, rfl⟩, rfl, rfl, rfl, ?_⟩
    simp [psReply, awaiting]
  · have hlen : (replyFrame 4 r1 ++ replyFrame 5 r2).length = r1.body.length + r2.body.length + 6 := by
      rw [List.length_append, replyFrame_length, replyFrame_length]
      omega
    have hread := (hx.runSteps hscript 3).trans
      (runSteps_succ 2 (step_awaiting_bytes hp (.inl rfl) (by omega) (by omega)))
    have hack := hread.trans (runSteps_succ 1 (step_awaiting_reply hp (.inl rfl) hr1 (by omega)))
    rw [psReply_ack] at hack
    refine ⟨_, hack.trans (runSteps_succ 0 (step_awaiting_only_reply hp (.inr rfl) hr2)), rfl, setOk_resultBytes _ _,
      rfl, ⟨Nat.zero_le _, rfl, rfl⟩, rfl, rfl, rfl, ?_⟩
    exact List.append_assoc ..

/-- Settles O49: the Error ends the exchange in RX1 or, after an Ack, in RX2. -/
theorem exchangeWithDeviceError : Obligations.ExchangeWithDeviceError := by
  intro s q r1 r2 hs rest hseq hp hb hwf hc hplen haddr hr1 hr2 hh
  have hx : Opens s q [] hs := ⟨hseq, hp, hb, hwf, hc, hplen, haddr, hh⟩
  have hsuspect := suspectAfter_of_not_marksSuspect (c := .deviceError) rfl s.suspect
  refine ⟨fun hscript => ?_, fun hscript => ?_⟩
  · exact ⟨_, (hx.runSteps hscript 2).trans (runSteps_awaiting_reply hp (.inl rfl) hr2 0), if_pos rfl, rfl, rfl,
      hsuspect, rfl, List.append_assoc ..⟩
  · have hack := (hx.runSteps hscript 4).trans (runSteps_awaiting_reply hp (.inl rfl) hr1 2)
    rw [psReply_ack] at hack
    refine ⟨_, hack.trans (runSteps_awaiting_reply hp (.inr rfl) hr2 0), if_pos rfl, rfl, rfl, hsuspect, rfl, ?_⟩
    simp [psReply, awaiting]

/-- Settles O50: after the Ack the timeout ends the exchange, with the request latched and the old result bytes. -/
theorem failedExchangeRollsNothingBack : Obligations.FailedExchangeRollsNothingBack := by
  intro s q r hs rest hseq hp hb hwf hc hplen haddr hr hh hscript
  have hx : Opens s q [] hs := ⟨hseq, hp, hb, hwf, hc, hplen, haddr, hh⟩
  have hack := (hx.runSteps hscript 3).trans (runSteps_awaiting_reply hp (.inl rfl) hr 1)
  rw [psReply_ack] at hack
  exact ⟨_, hack.trans (runSteps_succ 0 (step_awaiting_timeout hp (.inr rfl))), rfl, rfl,
    suspectAfter_of_marksSuspect rfl _, rfl, ⟨Nat.zero_le _, rfl, rfl⟩, latch_txBytes _ s, rfl, rfl⟩

/-- Settles O51: the held Completion is the first reply, without a read. -/
theorem staleReplyAnswersTheNextRequest : Obligations.StaleReplyAnswersTheNextRequest := by
  intro s q r more hs rest hseq hp hb hwf hc hplen haddr hr hh hscript
  have hx : Opens s q (replyFrame 0x5 r ++ more) hs := ⟨hseq, hp, hb, hwf, hc, hplen, haddr, hh⟩
  have hmore : more.length ≤ 16 := by
    have hcap := hb.1
    rw [List.length_append] at hcap
    exact (Nat.le_add_left ..).trans hcap
  exact ⟨_, (hx.runSteps hscript 1).trans (runSteps_succ 0 (step_awaiting_reply hp (.inl rfl) hr hb.1)), rfl,
    setOk_resultBytes _ _, rfl, ⟨hmore, rfl, rfl⟩, rfl, rfl, rfl⟩

end Sys2Proof.Machine
end
